-- ==== Sys2Proof/Word.lean ====
section
/-!
DEFINITION. The widths the spec names (00_scope.md R8): bytes of the packet buffer and 32-bit command
and register words. Values that the spec adds, slices or stores in a register are bit vectors; counts,
indexes and offsets are `Nat`; the geometry of the converter is exact on `Int`.
-/

namespace Sys2Proof

/-- One byte of the packet buffer (10_state.md R28). -/
abbrev Byte := BitVec 8

/-- A command word (30_encoding.md R100) or a control and status register (10_state.md R23). -/
abbrev Word := BitVec 32

end Sys2Proof
end

