-- ==== Sys2Proof/Syntax.lean ====
section
/-!
DEFINITION. The operations of the block (30_encoding.md R101), one constructor per row of
spec/opcode_table.json, in the table's order, with the operands of R100's formats. Payloads are not part
of the syntax: they travel beside the command word (R103).
-/

namespace Sys2Proof

/-- The field select `f` of `CAL.GET` (30_encoding.md R104, 41_calibration.md R157). -/
inductive CalField where
  | elev
  | azoff
  | voff
  | hoff
deriving DecidableEq, Repr

/-- The source select `s` of `ASM.PUSH` (30_encoding.md R104): the converter result or the host's points. -/
inductive PushSource where
  | pts
  | host
deriving DecidableEq, Repr

/-- One operation. `c` is a column index, `k` a channel index, `m` a model number, `r` a register number;
`v` is the 12-bit value written by `CSR.WR`. -/
inductive Instr where
  | nop
  | sysReset
  | asmReset
  | csrRd (r : Nat)
  | csrWr (r : Nat) (v : BitVec 12)
  | pktLoad
  | pxDist (c k : Nat)
  | pxRefl (c k : Nat)
  | pxSig (c k : Nat)
  | pxNoise (c k : Nat)
  | colTs (c : Nat)
  | colMid (c : Nat)
  | colFid (c : Nat)
  | colEnc (c : Nat)
  | colValid (c : Nat)
  | colAzdeg (c : Nat)
  | colAzrad (c : Nat)
  | calBuiltin (m : Nat)
  | calExt
  | calGet (f : CalField) (k : Nat)
  | calRes
  | calNum
  | cvtLast
  | cvtStrongest
  | cvtDual
  | cvtRuntime
  | asmPush (src : PushSource)
  | proc
deriving DecidableEq, Repr

/-- What the command decoder says of a word (30_encoding.md R102): an operation, or why the word is illegal. -/
inductive Decoded where
  /-- The word is an operation. -/
  | ok (i : Instr)
  /-- No row of the opcode map has this `op`. -/
  | reservedOpcode
  /-- A bit that the row's format does not use is 1. -/
  | mustBeZero
deriving DecidableEq, Repr

end Sys2Proof
end

