-- ==== Sys2Proof/WellFormed.lean ====
section
/-!
DEFINITION. Which operations have a command word: every index operand fits its 12-bit field
(30_encoding.md R100). An index that fits its field but is too large for the configuration is well formed
(R102): it raises IndexOutOfRange when the operation runs.
-/

namespace Sys2Proof

/-- A value fits the 12-bit field `a` or `b` of a command word. -/
def fitsField (n : Nat) : Bool := decide (n < 4096)

/-- The operands of an operation fit the fields of its format (30_encoding.md R100). -/
def Instr.wellFormed : Instr → Bool
  | .nop => true
  | .sysReset => true
  | .asmReset => true
  | .csrRd r => fitsField r
  | .csrWr r _ => fitsField r
  | .pktLoad => true
  | .pxDist c k => fitsField c && fitsField k
  | .pxRefl c k => fitsField c && fitsField k
  | .pxSig c k => fitsField c && fitsField k
  | .pxNoise c k => fitsField c && fitsField k
  | .colTs c => fitsField c
  | .colMid c => fitsField c
  | .colFid c => fitsField c
  | .colEnc c => fitsField c
  | .colValid c => fitsField c
  | .colAzdeg c => fitsField c
  | .colAzrad c => fitsField c
  | .calBuiltin m => fitsField m
  | .calExt => true
  | .calGet _ k => fitsField k
  | .calRes => true
  | .calNum => true
  | .cvtLast => true
  | .cvtStrongest => true
  | .cvtDual => true
  | .cvtRuntime => true
  | .asmPush _ => true
  | .proc => true

end Sys2Proof
end

