-- ==== Sys2Proof/Decode.lean ====
section
/-!
DEFINITION. The command decoder, total on all 2^32 words (30_encoding.md R100 to R102), and after it the
encoder, written from the same opcode map.
-/

namespace Sys2Proof

/-- `op = w[31:24]`. -/
def opBits (w : Word) : BitVec 8 := w.extractLsb' 24 8

/-- `a = w[23:12]`. -/
def aBits (w : Word) : BitVec 12 := w.extractLsb' 12 12

/-- `b = w[11:0]`. -/
def bBits (w : Word) : BitVec 12 := w.extractLsb' 0 12

/-- Format Z: `a` and `b` must be 0. -/
def formatZ (w : Word) (i : Instr) : Decoded :=
  if aBits w = 0 ∧ bBits w = 0 then .ok i else .mustBeZero

/-- Format CK: `a` is the column index, `b` the channel index. -/
def formatCK (w : Word) (i : Nat → Nat → Instr) : Decoded :=
  .ok (i (aBits w).toNat (bBits w).toNat)

/-- Formats CC and RA: `a` is a column index or a register number, `b` must be 0. -/
def formatA (w : Word) (i : Nat → Instr) : Decoded :=
  if bBits w = 0 then .ok (i (aBits w).toNat) else .mustBeZero

/-- Format M: `a` must be 0, `b` is the model number. -/
def formatM (w : Word) (i : Nat → Instr) : Decoded :=
  if aBits w = 0 then .ok (i (bBits w).toNat) else .mustBeZero

/-- Format RW: `a` is the register number, `b` the 12-bit value. -/
def formatRW (w : Word) (i : Nat → BitVec 12 → Instr) : Decoded :=
  .ok (i (aBits w).toNat (bBits w))

/-- Format FK: `a[1:0]` selects the field, `a[11:2]` must be 0, `b` is the channel index. -/
def formatFK (w : Word) (i : CalField → Nat → Instr) : Decoded :=
  match (aBits w).toNat with
  | 0 => .ok (i .elev (bBits w).toNat)
  | 1 => .ok (i .azoff (bBits w).toNat)
  | 2 => .ok (i .voff (bBits w).toNat)
  | 3 => .ok (i .hoff (bBits w).toNat)
  | _ => .mustBeZero

/-- Format S: `a` must be 0, `b[0]` selects the source, `b[11:1]` must be 0. -/
def formatS (w : Word) (i : PushSource → Instr) : Decoded :=
  if aBits w = 0 then
    match (bBits w).toNat with
    | 0 => .ok (i .pts)
    | 1 => .ok (i .host)
    | _ => .mustBeZero
  else .mustBeZero

/-- Decoding a command word (30_encoding.md R101, R102). -/
def decode (w : Word) : Decoded :=
  match (opBits w).toNat with
  | 0x00 => formatZ w .nop
  | 0x01 => formatZ w .sysReset
  | 0x02 => formatZ w .asmReset
  | 0x04 => formatA w .csrRd
  | 0x05 => formatRW w .csrWr
  | 0x10 => formatZ w .pktLoad
  | 0x11 => formatCK w .pxDist
  | 0x12 => formatCK w .pxRefl
  | 0x13 => formatCK w .pxSig
  | 0x14 => formatCK w .pxNoise
  | 0x18 => formatA w .colTs
  | 0x19 => formatA w .colMid
  | 0x1A => formatA w .colFid
  | 0x1B => formatA w .colEnc
  | 0x1C => formatA w .colValid
  | 0x1D => formatA w .colAzdeg
  | 0x1E => formatA w .colAzrad
  | 0x20 => formatM w .calBuiltin
  | 0x21 => formatZ w .calExt
  | 0x22 => formatFK w .calGet
  | 0x23 => formatZ w .calRes
  | 0x24 => formatZ w .calNum
  | 0x30 => formatZ w .cvtLast
  | 0x31 => formatZ w .cvtStrongest
  | 0x32 => formatZ w .cvtDual
  | 0x33 => formatZ w .cvtRuntime
  | 0x40 => formatS w .asmPush
  | 0x41 => formatZ w .proc
  | _ => .reservedOpcode

/-- The operation a decoding stands for, if it is one. -/
def Decoded.toInstr : Decoded → Option Instr
  | .ok i => some i
  | .reservedOpcode => none
  | .mustBeZero => none

/-- The operation read from the bits `w` numbered as spec/opcode_table.json numbers them: a command word is
one 32-bit word, so its bits are the table's. -/
def decodeTableWord (nbits w : Nat) : Option Instr :=
  (decode (BitVec.ofNat 32 (w % 2 ^ nbits))).toInstr

/-- A command word from its three fields (30_encoding.md R100). -/
def packWord (op : BitVec 8) (a b : BitVec 12) : Word := op ++ a ++ b

/-- The number of a field select (30_encoding.md R104). -/
def fieldNumber : CalField → BitVec 12
  | .elev => 0
  | .azoff => 1
  | .voff => 2
  | .hoff => 3

/-- The number of a source select (30_encoding.md R104). -/
def sourceNumber : PushSource → BitVec 12
  | .pts => 0
  | .host => 1

/-- The command word of an operation (30_encoding.md R101, R104). -/
def encode : Instr → Word
  | .nop => packWord 0x00 0 0
  | .sysReset => packWord 0x01 0 0
  | .asmReset => packWord 0x02 0 0
  | .csrRd r => packWord 0x04 (BitVec.ofNat 12 r) 0
  | .csrWr r v => packWord 0x05 (BitVec.ofNat 12 r) v
  | .pktLoad => packWord 0x10 0 0
  | .pxDist c k => packWord 0x11 (BitVec.ofNat 12 c) (BitVec.ofNat 12 k)
  | .pxRefl c k => packWord 0x12 (BitVec.ofNat 12 c) (BitVec.ofNat 12 k)
  | .pxSig c k => packWord 0x13 (BitVec.ofNat 12 c) (BitVec.ofNat 12 k)
  | .pxNoise c k => packWord 0x14 (BitVec.ofNat 12 c) (BitVec.ofNat 12 k)
  | .colTs c => packWord 0x18 (BitVec.ofNat 12 c) 0
  | .colMid c => packWord 0x19 (BitVec.ofNat 12 c) 0
  | .colFid c => packWord 0x1A (BitVec.ofNat 12 c) 0
  | .colEnc c => packWord 0x1B (BitVec.ofNat 12 c) 0
  | .colValid c => packWord 0x1C (BitVec.ofNat 12 c) 0
  | .colAzdeg c => packWord 0x1D (BitVec.ofNat 12 c) 0
  | .colAzrad c => packWord 0x1E (BitVec.ofNat 12 c) 0
  | .calBuiltin m => packWord 0x20 0 (BitVec.ofNat 12 m)
  | .calExt => packWord 0x21 0 0
  | .calGet f k => packWord 0x22 (fieldNumber f) (BitVec.ofNat 12 k)
  | .calRes => packWord 0x23 0 0
  | .calNum => packWord 0x24 0 0
  | .cvtLast => packWord 0x30 0 0
  | .cvtStrongest => packWord 0x31 0 0
  | .cvtDual => packWord 0x32 0 0
  | .cvtRuntime => packWord 0x33 0 0
  | .asmPush src => packWord 0x40 0 (sourceNumber src)
  | .proc => packWord 0x41 0 0

end Sys2Proof
end

