-- ==== Sys2Proof/Config.lean ====
section
/-!
DEFINITION. The configuration `Cfg` of 00_scope.md R6: every parameter the source leaves open, as plain
data, with the well-formedness the spec asks of it. The rules of the block hold for every well-formed
configuration; the two reference configurations of R7 are given at the end.
-/

namespace Sys2Proof

/-- One LaserParameter (10_state.md R29): elevation and azimuth offset in ticks, vertical and horizontal
offset in SQ15.16 millimetres, each a signed 32-bit value. -/
structure Laser where
  elev  : BitVec 32
  azoff : BitVec 32
  voff  : BitVec 32
  hoff  : BitVec 32
deriving DecidableEq, Repr, Inhabited

/-- A calibration table (10_state.md R29): declared channel count, distance resolution in SQ15.16
millimetres per count, and one entry per channel at storage indexes from 0. -/
structure CalTable where
  num    : BitVec 16
  res    : BitVec 32
  lasers : List Laser
deriving DecidableEq, Repr, Inhabited

/-- The invariants of every active table (41_calibration.md R151), with the capacity of 10_state.md R29. -/
abbrev CalTable.Wf (cap : Nat) (t : CalTable) : Prop :=
  0 < t.res.toInt ∧ t.num.toNat = t.lasers.length ∧ t.num.toNat ≤ cap

/-- The configuration (00_scope.md R6). `N` pixels per column, `C` columns per packet, `T` encoder ticks per
revolution. `builtin` lists the compiled-in tables, so NMODELS is its length. A capacity of `none` is
"unbounded". `sinTab` holds `SINQ(0) .. SINQ(T-1)`, which is all of SINQ by 42_converter.md R176 (a); COSQ
follows by R176 (d). -/
structure Cfg where
  N         : Nat
  C         : Nat
  T         : Nat
  beamCount : Nat
  calOrigin : Nat
  calCap    : Nat
  builtin   : List CalTable
  revCap    : Option Nat
  inqCap    : Option Nat
  sinTab    : List Int
deriving DecidableEq, Repr

/-- 42_converter.md R176 (b) and (c) on the table, with its length (R176 (a)): the part of the rule that speaks of
integers only. -/
abbrev Cfg.TrigTable (cfg : Cfg) : Prop :=
  cfg.sinTab.length = cfg.T ∧
  (∀ v ∈ cfg.sinTab, v.natAbs ≤ 2 ^ 30) ∧
  cfg.sinTab[0]? = some 0 ∧
  cfg.sinTab[cfg.T / 4]? = some (2 ^ 30) ∧
  cfg.sinTab[cfg.T / 2]? = some 0 ∧
  cfg.sinTab[3 * cfg.T / 4]? = some (-(2 ^ 30))

/-- 42_converter.md R176 (e) on the table: each entry is within one unit of the real sine. -/
def Cfg.SineAccurate (cfg : Cfg) : Prop :=
  ∀ (a : Nat) (v : Int), cfg.sinTab[a]? = some v →
    |(v : ℝ) - 2 ^ 30 * Real.sin (2 * Real.pi * a / cfg.T)| ≤ 1

/-- TRIG meets 42_converter.md R176: (a) and (d) hold by the table's form, (b), (c) and (e) are asked of it. -/
abbrev Cfg.TrigWf (cfg : Cfg) : Prop := cfg.TrigTable ∧ cfg.SineAccurate

/-- Well-formedness of a configuration (00_scope.md R6, 70_reset_and_hazards.md R302): every premise of R6, TRIG's
included. C even is asked only where the dual shape is used (WF-dual), so it is not part of this. -/
abbrev Cfg.Wf (cfg : Cfg) : Prop :=
  (1 ≤ cfg.N ∧ cfg.N ≤ 4096) ∧
  (1 ≤ cfg.C ∧ cfg.C ≤ 4096) ∧
  (4 ≤ cfg.T ∧ cfg.T < 2 ^ 31 ∧ cfg.T % 4 = 0) ∧
  (cfg.beamCount = 16 ∨ cfg.beamCount = 32) ∧
  (cfg.calOrigin = 0 ∨ cfg.calOrigin = 1) ∧
  (cfg.N ≤ cfg.calCap ∧ cfg.calCap ≤ 4096) ∧
  (cfg.builtin.length ≤ 4096 ∧ ∀ t ∈ cfg.builtin, t.Wf cfg.calCap) ∧
  (∀ n ∈ cfg.revCap, 1 ≤ n) ∧
  (∀ n ∈ cfg.inqCap, cfg.C * cfg.N ≤ n) ∧
  cfg.TrigWf

/-- Reference sine values (42_converter.md R176; log 3), ticks 0 to 99 of 3600. -/
def sineQuarter0 : List Nat :=
  [0, 1874032, 3748058, 5622073, 7496071, 9370046, 11243993, 13117905, 14991777, 16865604,
   18739379, 20613097, 22486752, 24360339, 26233852, 28107284, 29980631, 31853887, 33727046, 35600102,
   37473049, 39345883, 41218596, 43091184, 44963641, 46835961, 48708138, 50580166, 52452041, 54323756,
   56195305, 58066683, 59937885, 61808903, 63679734, 65550370, 67420807, 69291038, 71161059, 73030862,
   74900443, 76769796, 78638915, 80507795, 82376429, 84244813, 86112939, 87980804, 89848400, 91715723,
   93582766, 95449524, 97315992, 99182163, 101048032, 102913593, 104778841, 106643769, 108508373, 110372646,
   112236583, 114100178, 115963425, 117826319, 119688855, 121551025, 123412826, 125274250, 127135293, 128995948,
   130856211, 132716075, 134575535, 136434585, 138293219, 140151432, 142009218, 143866571, 145723486, 147579958,
   149435979, 151291546, 153146651, 155001291, 156855458, 158709147, 160562352, 162415069, 164267291, 166119012,
   167970228, 169820932, 171671118, 173520782, 175369917, 177218517, 179066578, 180914094, 182761058, 184607466]

/-- Reference sine values (42_converter.md R176; log 3), ticks 100 to 199 of 3600. -/
def sineQuarter1 : List Nat :=
  [186453311, 188298588, 190143292, 191987417, 193830956, 195673906, 197516259, 199358010, 201199155, 203039686,
   204879599, 206718887, 208557547, 210395570, 212232953, 214069690, 215905774, 217741200, 219575964, 221410058,
   223243478, 225076218, 226908272, 228739636, 230570302, 232400266, 234229522, 236058064, 237885888, 239712987,
   241539355, 243364988, 245189880, 247014024, 248837417, 250660051, 252481921, 254303023, 256123350, 257942897,
   259761657, 261579627, 263396800, 265213170, 267028733, 268843482, 270657412, 272470518, 274282794, 276094234,
   277904834, 279714586, 281523487, 283331530, 285138710, 286945021, 288750459, 290555016, 292358689, 294161471,
   295963357, 297764342, 299564419, 301363584, 303161831, 304959154, 306755549, 308551009, 310345529, 312139104,
   313931728, 315723395, 317514101, 319303840, 321092606, 322880394, 324667198, 326453013, 328237834, 330021655,
   331804471, 333586276, 335367065, 337146832, 338925573, 340703281, 342479951, 344255577, 346030155, 347803679,
   349576144, 351347544, 353117873, 354887127, 356655300, 358422386, 360188380, 361953278, 363717072, 365479759]

/-- Reference sine values (42_converter.md R176; log 3), ticks 200 to 299 of 3600. -/
def sineQuarter2 : List Nat :=
  [367241333, 369001787, 370761118, 372519319, 374276386, 376032312, 377787093, 379540723, 381293198, 383044510,
   384794656, 386543629, 388291425, 390038039, 391783464, 393527696, 395270729, 397012558, 398753177, 400492582,
   402230767, 403967727, 405703456, 407437949, 409171201, 410903207, 412633961, 414363458, 416091693, 417818660,
   419544355, 421268771, 422991905, 424713749, 426434300, 428153553, 429871500, 431588139, 433303463, 435017466,
   436730145, 438441493, 440151506, 441860178, 443567504, 445273479, 446978097, 448681354, 450383244, 452083762,
   453782903, 455480662, 457177033, 458872012, 460565593, 462257770, 463948540, 465637896, 467325835, 469012349,
   470697435, 472381087, 474063300, 475744069, 477423388, 479101254, 480777660, 482452601, 484126073, 485798070,
   487468587, 489137620, 490805162, 492471209, 494135756, 495798798, 497460330, 499120346, 500778842, 502435812,
   504091252, 505745156, 507397520, 509048338, 510697606, 512345318, 513991469, 515636054, 517279069, 518920508,
   520560366, 522198638, 523835320, 525470406, 527103892, 528735772, 530366041, 531994694, 533621727, 535247135]

/-- Reference sine values (42_converter.md R176; log 3), ticks 300 to 399 of 3600. -/
def sineQuarter3 : List Nat :=
  [536870912, 538493054, 540113555, 541732411, 543349617, 544965168, 546579058, 548191284, 549801840, 551410721,
   553017922, 554623439, 556227266, 557829399, 559429832, 561028562, 562625582, 564220889, 565814477, 567406341,
   568996477, 570584880, 572171545, 573756466, 575339640, 576921062, 578500725, 580078627, 581654762, 583229125,
   584801711, 586372516, 587941534, 589508762, 591074194, 592637825, 594199651, 595759668, 597317869, 598874251,
   600428808, 601981537, 603532431, 605081488, 606628701, 608174066, 609717579, 611259234, 612799027, 614336954,
   615873009, 617407188, 618939487, 620469900, 621998423, 623525051, 625049780, 626572605, 628093521, 629612524,
   631129609, 632644771, 634158007, 635669310, 637178678, 638686104, 640191585, 641695115, 643196691, 644696308,
   646193961, 647689645, 649183356, 650675090, 652164842, 653652607, 655138381, 656622160, 658103938, 659583711,
   661061475, 662537226, 664010958, 665482668, 666952351, 668420001, 669885616, 671349190, 672810719, 674270199,
   675727625, 677182992, 678636296, 680087533, 681536699, 682983788, 684428797, 685871721, 687312556, 688751297]

/-- Reference sine values (42_converter.md R176; log 3), ticks 400 to 499 of 3600. -/
def sineQuarter4 : List Nat :=
  [690187940, 691622481, 693054915, 694485238, 695913445, 697339532, 698763495, 700185330, 701605031, 703022596,
   704438018, 705851295, 707262422, 708671395, 710078209, 711482859, 712885343, 714285654, 715683790, 717079746,
   718473518, 719865101, 721254491, 722641684, 724026676, 725409462, 726790038, 728168401, 729544545, 730918467,
   732290163, 733659628, 735026858, 736391849, 737754597, 739115098, 740473347, 741829340, 743183074, 744534544,
   745883746, 747230676, 748575329, 749917702, 751257791, 752595592, 753931100, 755264311, 756595222, 757923828,
   759250125, 760574109, 761895777, 763215124, 764532145, 765846838, 767159198, 768469221, 769776904, 771082241,
   772385229, 773685865, 774984144, 776280062, 777573615, 778864800, 780153612, 781440048, 782724104, 784005775,
   785285058, 786561948, 787836443, 789108538, 790378229, 791645512, 792910384, 794172841, 795432878, 796690493,
   797945680, 799198437, 800448760, 801696644, 802942086, 804185082, 805425628, 806663721, 807899357, 809132531,
   810363241, 811591483, 812817252, 814040545, 815261358, 816479688, 817695531, 818908883, 820119741, 821328100]

/-- Reference sine values (42_converter.md R176; log 3), ticks 500 to 599 of 3600. -/
def sineQuarter5 : List Nat :=
  [822533958, 823737309, 824938152, 826136482, 827332295, 828525588, 829716357, 830904598, 832090309, 833273485,
   834454122, 835632218, 836807768, 837980769, 839151218, 840319110, 841484442, 842647212, 843807414, 844965046,
   846120104, 847272585, 848422484, 849569799, 850714527, 851856663, 852996204, 854133146, 855267487, 856399223,
   857528349, 858654864, 859778763, 860900043, 862018700, 863134732, 864248134, 865358904, 866467037, 867572532,
   868675383, 869775589, 870873144, 871968047, 873060294, 874149882, 875236806, 876321065, 877402654, 878481570,
   879557810, 880631371, 881702250, 882770442, 883835946, 884898757, 885958873, 887016290, 888071004, 889123014,
   890172315, 891218905, 892262780, 893303937, 894342372, 895378084, 896411067, 897441321, 898468840, 899493623,
   900515665, 901534965, 902551518, 903565322, 904576373, 905584669, 906590207, 907592983, 908592994, 909590237,
   910584710, 911576408, 912565330, 913551473, 914534832, 915515405, 916493190, 917468183, 918440381, 919409781,
   920376381, 921340177, 922301166, 923259346, 924214714, 925167266, 926117000, 927063913, 928008002, 928949264]

/-- Reference sine values (42_converter.md R176; log 3), ticks 600 to 699 of 3600. -/
def sineQuarter6 : List Nat :=
  [929887697, 930823296, 931756061, 932685987, 933613072, 934537312, 935458707, 936377251, 937292943, 938205781,
   939115760, 940022878, 940927133, 941828522, 942727041, 943622690, 944515463, 945405360, 946292376, 947176510,
   948057759, 948936120, 949811590, 950684167, 951553848, 952420630, 953284511, 954145488, 955003559, 955858721,
   956710970, 957560306, 958406725, 959250224, 960090801, 960928454, 961763179, 962594975, 963423838, 964249767,
   965072759, 965892810, 966709920, 967524084, 968335302, 969143570, 969948885, 970751246, 971550650, 972347094,
   973140576, 973931094, 974718646, 975503228, 976284838, 977063475, 977839135, 978611817, 979381517, 980148234,
   980911966, 981672709, 982430463, 983185223, 983936989, 984685757, 985431526, 986174293, 986914056, 987650812,
   988384560, 989115298, 989843022, 990567731, 991289422, 992008094, 992723745, 993436371, 994145971, 994852542,
   995556083, 996256592, 996954065, 997648502, 998339900, 999028257, 999713570, 1000395838, 1001075059, 1001751230,
   1002424350, 1003094416, 1003761427, 1004425380, 1005086273, 1005744105, 1006398873, 1007050575, 1007699210, 1008344775]

/-- Reference sine values (42_converter.md R176; log 3), ticks 700 to 799 of 3600. -/
def sineQuarter7 : List Nat :=
  [1008987269, 1009626689, 1010263033, 1010896300, 1011526488, 1012153594, 1012777617, 1013398555, 1014016406, 1014631169,
   1015242840, 1015851419, 1016456903, 1017059291, 1017658581, 1018254771, 1018847859, 1019437844, 1020024723, 1020608495,
   1021189159, 1021766711, 1022341151, 1022912477, 1023480686, 1024045778, 1024607751, 1025166602, 1025722331, 1026274935,
   1026824413, 1027370763, 1027913983, 1028454073, 1028991029, 1029524851, 1030055537, 1030583085, 1031107494, 1031628761,
   1032146887, 1032661868, 1033173703, 1033682392, 1034187931, 1034690320, 1035189558, 1035685642, 1036178571, 1036668344,
   1037154959, 1037638414, 1038118709, 1038595841, 1039069810, 1039540613, 1040008250, 1040472719, 1040934018, 1041392147,
   1041847103, 1042298886, 1042747493, 1043192924, 1043635178, 1044074252, 1044510146, 1044942858, 1045372387, 1045798732,
   1046221891, 1046641863, 1047058646, 1047472241, 1047882644, 1048289855, 1048693874, 1049094697, 1049492325, 1049886756,
   1050277989, 1050666022, 1051050855, 1051432487, 1051810915, 1052186140, 1052558159, 1052926972, 1053292578, 1053654975,
   1054014162, 1054370139, 1054722904, 1055072456, 1055418795, 1055761918, 1056101825, 1056438515, 1056771987, 1057102240]

/-- Reference sine values (42_converter.md R176; log 3), ticks 800 to 899 of 3600. -/
def sineQuarter8 : List Nat :=
  [1057429273, 1057753085, 1058073674, 1058391041, 1058705183, 1059016101, 1059323792, 1059628257, 1059929494, 1060227502,
   1060522280, 1060813828, 1061102145, 1061387229, 1061669080, 1061947697, 1062223079, 1062495226, 1062764136, 1063029808,
   1063292242, 1063551438, 1063807393, 1064060108, 1064309582, 1064555814, 1064798803, 1065038548, 1065275049, 1065508305,
   1065738315, 1065965079, 1066188596, 1066408865, 1066625885, 1066839657, 1067050178, 1067257449, 1067461469, 1067662238,
   1067859754, 1068054017, 1068245027, 1068432783, 1068617284, 1068798530, 1068976520, 1069151254, 1069322731, 1069490950,
   1069655912, 1069817616, 1069976060, 1070131246, 1070283171, 1070431836, 1070577241, 1070719384, 1070858266, 1070993886,
   1071126243, 1071255337, 1071381169, 1071503736, 1071623040, 1071739079, 1071851854, 1071961363, 1072067607, 1072170586,
   1072270298, 1072366744, 1072459924, 1072549836, 1072636482, 1072719860, 1072799970, 1072876812, 1072950387, 1073020692,
   1073087729, 1073151498, 1073211997, 1073269227, 1073323188, 1073373879, 1073421301, 1073465453, 1073506335, 1073543946,
   1073578288, 1073609359, 1073637160, 1073661690, 1073682950, 1073700939, 1073715658, 1073727105, 1073735282, 1073740189]

/-- Reference sine values (42_converter.md R176; log 3), ticks 900 to 900 of 3600. -/
def sineQuarter9 : List Nat :=
  [1073741824]

/-- Reference sine values over the first quarter turn, ticks 0 to 900 of 3600. -/
def sineQuarter : List Nat :=
  sineQuarter0 ++ (sineQuarter1 ++ (sineQuarter2 ++ (sineQuarter3 ++ (sineQuarter4 ++ (sineQuarter5 ++
    (sineQuarter6 ++ (sineQuarter7 ++ (sineQuarter8 ++ sineQuarter9))))))))

/-- The reference instantiation of SINQ for T = 3600 (42_converter.md R176, last paragraph):
`floor(2^30 * sin(2*pi*a/T) + 1/2)` for a = 0 .. 3599, unfolded from its first quarter. -/
def sineReference : List Int :=
  let rise := (sineQuarter.take 900).map Int.ofNat
  let fall := (sineQuarter.reverse.take 900).map Int.ofNat
  rise ++ (fall ++ (rise.map Int.neg ++ fall.map Int.neg))

/-- The reference configuration A16 (00_scope.md R7) with both queues unbounded and the reference TRIG
(95_test_vectors.md). R7 gives no CAL_CAP and no built-in table: 4096 and none. -/
def Cfg.a16 : Cfg where
  N := 16
  C := 2
  T := 3600
  beamCount := 16
  calOrigin := 0
  calCap := 4096
  builtin := []
  revCap := none
  inqCap := none
  sinTab := sineReference

/-- The reference configuration TINY (00_scope.md R7), completed as A16 is; R7 gives it no BEAM_COUNT. -/
def Cfg.tiny : Cfg := { Cfg.a16 with N := 2 }

end Sys2Proof
end

