-- ==== Sys2Proof/Machine/State.lean ====
section
/-!
DEFINITION. The state of the block as plain data (10_state.md), its value after reset (R43), and the two
ways a step of the model can stop. INVENTORY.md lists every field with the rule that names it.
-/

namespace Sys2Proof.Machine

/-- The packet byte space (20_memory.md R60): (offset, byte) cells, offsets strictly rising, no cell equal to
what an unlisted offset reads as. -/
abbrev Memory := List Host.Cell

/-- Which return a point represents (10_state.md R30): 0 LAST, 1 STRONGEST. -/
inductive Ret where
  | last
  | strongest
deriving DecidableEq, Repr

/-- The value of `CTRL.POLICY` (10_state.md R23, R26). -/
inductive Policy where
  | last
  | strongest
  | dual
  | runtime
deriving DecidableEq, Repr

/-- A Point (10_state.md R30). `x`, `y`, `z` are signed, SQ47.16 millimetres. -/
structure Point where
  x     : BitVec 64
  y     : BitVec 64
  z     : BitVec 64
  refl  : BitVec 16
  sig   : BitVec 16
  noise : BitVec 16
  az    : BitVec 32
  ch    : BitVec 16
  col   : BitVec 32
  ts    : BitVec 64
  valid : Bool
  ret   : Ret
deriving DecidableEq, Repr

/-- `PTS` with its tag `PTS_SHAPE` (10_state.md R31): NONE has no points, SINGLE a sequence of points, DUAL a
sequence of pairs (last, strongest). -/
inductive Pts where
  | none
  | single (points : List Point)
  | dual (pairs : List (Point × Point))
deriving DecidableEq, Repr

/-- The frame record (10_state.md R40). -/
structure Frame where
  points : List Point
  height : BitVec 16
  width  : BitVec 32
deriving DecidableEq, Repr

/-- The four words of an error (60_exceptions.md R262): the completion registers of 10_state.md R22, and the
latched copy of R38. -/
structure ErrRec where
  code  : BitVec 8
  sub   : BitVec 8
  info0 : BitVec 32
  info1 : BitVec 32
deriving DecidableEq, Repr

/-- The error kinds (60_exceptions.md R263). -/
inductive ErrKind where
  | malformedPacket
  | calibrationError
  | unknownReturnMode
  | frameAssemblyError
  | channelCountMismatch
  | notReady
  | indexOutOfRange
  | illegalCommand
  | bufferOverflow
deriving DecidableEq, Repr

/-- The assembler's state (10_state.md R32 to R40), owned by one stream (R45). `inq`, `rev`, `colbuf` are INQ,
REV, COLBUF; `frame` is all empty while `frameValid` is clear. -/
structure Asm where
  inq        : List Point
  rev        : List (List Point)
  colbuf     : List Point
  prevValid  : Bool
  prevAz     : BitVec 32
  prevCh     : BitVec 16
  colcnt     : BitVec 32
  beamNum    : BitVec 16
  fatal      : Bool
  fatalErr   : ErrRec
  frameValid : Bool
  frame      : Frame
deriving DecidableEq, Repr

/-- One record of an external calibration table (30_encoding.md R103). -/
structure CalRecord where
  index : BitVec 32
  elev  : BitVec 32
  azoff : BitVec 32
  voff  : BitVec 32
  hoff  : BitVec 32
deriving DecidableEq, Repr

/-- The payload `tbl` of `CAL.EXT` (30_encoding.md R103). -/
structure CalPayload where
  numLasers          : BitVec 32
  distanceResolution : BitVec 32
  records            : List CalRecord
deriving DecidableEq, Repr

/-- The payload beside a command word (30_encoding.md R103): what the host presents as `rx`, `tbl` and `pts`.
An operation reads the one its rule names; a payload the host does not present is the empty one. -/
structure Payload where
  rx  : List Byte
  tbl : CalPayload
  pts : List Point
deriving DecidableEq, Repr

/-- No payload. -/
def Payload.empty : Payload where
  rx := []
  tbl := { numLasers := 0, distanceResolution := 0, records := [] }
  pts := []

/-- One operation as the host issues it: a command word and its payload (30_encoding.md R100, R103). -/
structure Command where
  word    : Word
  payload : Payload
deriving DecidableEq, Repr

/-- The output part of a completion record (60_exceptions.md R262, 30_encoding.md R101). -/
inductive Output where
  /-- No output: an error, or an operation without one. -/
  | none
  /-- The value of `RES` of a scalar operation. -/
  | scalar (v : BitVec 64)
  /-- The tagged point sequence of a `CVT.*`. -/
  | points (p : Pts)
  /-- The optional frame of `ASM.PUSH` and `PROC`. -/
  | frame (f : Option Frame)
deriving DecidableEq, Repr

/-- The state. The first four fields are the model's own: the configuration (10_state.md R44, a parameter of
every step), the host's operations not yet issued, the payload of the operation in progress, and the output
of the last completion. All others are the spec's. -/
structure State where
  cfg     : Cfg
  cmds    : List Command
  payload : Payload
  output  : Output
  policy  : Policy
  dualsel : Bool
  retmode : BitVec 8
  pktOk   : Bool
  pkt     : Memory
  calOk   : Bool
  cal     : CalTable
  pts     : Pts
  asm     : Asm
  err     : ErrRec
  res     : BitVec 64
deriving DecidableEq, Repr

/-- Why the model's machine stops with a fault. The block itself never does: every operation completes
(60_exceptions.md R262). -/
inductive Fault where
  /-- Raised by the field reader of the `PX.*` and `COL.*` operations for a read that leaves the packet, where
  MemRead is not defined (00_scope.md R10). Safe: no operation can reach it (20_memory.md R65). -/
  | packetAddress (addr : Nat)
deriving DecidableEq, Repr

/-- Why the model declines a step. -/
inductive Refusal where
  /-- Raised by an arm of `exec` whose instruction has no meaning yet. Safe. -/
  | notModelled (mnemonic : String)
  /-- Raised by `CVT.DUAL`, `CVT.RUNTIME` and `PROC` when the dual shape is asked of a configuration with C
  odd, which has no meaning (42_converter.md R181, 93_implementation_defined.md U6). Safe. -/
  | dualShapeOddColumns
deriving DecidableEq, Repr

/-- The outcome of a step or of one operation. -/
abbrev Outcome := Host.Outcome State Fault Refusal

/-- How one operation ends (60_exceptions.md R262): `complete` with an output, `raise` with an error, or a stop
of the model. The state is what the rule's lines wrote before the end. -/
inductive Reply where
  | complete (s : State) (out : Output)
  | raise (s : State) (e : ErrRec)
  | fault (f : Fault)
  | refused (r : Refusal)
deriving DecidableEq, Repr

/-- The four words of success (10_state.md R22). -/
def ErrRec.ok : ErrRec where
  code := 0
  sub := 0
  info0 := 0
  info1 := 0

/-- The frame slot while `FRAME_VALID = 0` (10_state.md R40). -/
def Frame.empty : Frame where
  points := []
  height := 0
  width := 0

/-- The assembler after reset or `ASM.RESET` (10_state.md R43, 44_system.md R242). -/
def Asm.reset : Asm where
  inq := []
  rev := []
  colbuf := []
  prevValid := false
  prevAz := 0
  prevCh := 0
  colcnt := 0
  beamNum := 0
  fatal := false
  fatalErr := ErrRec.ok
  frameValid := false
  frame := Frame.empty

/-- The state after reset of a block with configuration `cfg` (10_state.md R43). DESIGN CHOICE (logs 10, 11): the
unreadable contents of PKT and CAL are empty. -/
def State.resetOf (cfg : Cfg) : State where
  cfg := cfg
  cmds := []
  payload := Payload.empty
  output := .none
  policy := .last
  dualsel := false
  retmode := 0
  pktOk := false
  pkt := []
  calOk := false
  cal := { num := 0, res := 0, lasers := [] }
  pts := .none
  asm := Asm.reset
  err := ErrRec.ok
  res := 0

/-- The machine right after reset (10_state.md R43). DESIGN CHOICE (log 2): the configuration, which the spec
leaves open, is the reference configuration A16 of 00_scope.md R7. -/
def State.reset : State := State.resetOf Cfg.a16

end Sys2Proof.Machine
end

