-- ==== Sys2Proof/Machine/Ops.lean ====
section
/-!
DEFINITION. The named operations over the state that the meanings share: the packet byte space, the
completion of an operation with success or with an error (the block's whole exception mechanism,
60_exceptions.md R262, R270; there is no return from one, R271), the host's commands, and the two resets.
-/

namespace Sys2Proof.Machine

/-! ### The packet byte space -/

/-- What an unlisted offset of the packet buffer reads as. DESIGN CHOICE (log 10): no operation reads the
buffer before `PKT.LOAD` has written all of it (10_state.md R28). -/
def unlistedByte : Byte := 0

/-- The canonical form: offsets strictly rising, no cell equal to what an unlisted offset reads as. -/
abbrev Memory.Wf (m : Memory) : Prop :=
  m.Pairwise (fun a b => a.1 < b.1) ∧ ∀ cell ∈ m, cell.2 ≠ unlistedByte

/-- One byte of the packet buffer. -/
def Memory.readByte (m : Memory) (addr : Nat) : Byte :=
  (m.lookup addr).getD unlistedByte

/-- The cells of a byte sequence stored from `addr` upward. -/
def Memory.ofBytesFrom : Nat → List Byte → Memory
  | _, [] => []
  | addr, b :: bs =>
    if b = unlistedByte then Memory.ofBytesFrom (addr + 1) bs
    else (addr, b) :: Memory.ofBytesFrom (addr + 1) bs

/-- The whole buffer written with a byte sequence (40_decoder.md R122), the only write to it (00_scope.md R10). -/
def Memory.ofBytes (bytes : List Byte) : Memory := Memory.ofBytesFrom 0 bytes

/-- `MemRead(addr, n)`: n bytes from `addr`, little-endian, unsigned (20_memory.md R62). -/
def memRead (m : Memory) (addr : Nat) : Nat → Nat
  | 0 => 0
  | n + 1 => (m.readByte addr).toNat + 256 * memRead m (addr + 1) n

/-! ### Completion -/

/-- The code of an error kind (60_exceptions.md R263). -/
def errCode : ErrKind → BitVec 8
  | .malformedPacket => 1
  | .calibrationError => 2
  | .unknownReturnMode => 3
  | .frameAssemblyError => 4
  | .channelCountMismatch => 5
  | .notReady => 6
  | .indexOutOfRange => 7
  | .illegalCommand => 8
  | .bufferOverflow => 9

/-- The words of `E(sub, info0, info1)`, the information words modulo 2^32 (60_exceptions.md R263). -/
def mkErr (kind : ErrKind) (sub expected actual : Nat) : ErrRec where
  code := errCode kind
  sub := BitVec.ofNat 8 sub
  info0 := BitVec.ofNat 32 expected
  info1 := BitVec.ofNat 32 actual

/-- Success: the completion registers are written 0 (10_state.md R22) and the output is returned. -/
def State.completed (s : State) (out : Output) : State :=
  { s with err := ErrRec.ok, output := out }

/-- An error: the completion registers hold its words and there is no output (60_exceptions.md R262). -/
def State.raised (s : State) (e : ErrRec) : State :=
  { s with err := e, output := .none }

/-- The end of an operation: the one place where the completion registers are written. -/
def finish : Reply → Outcome
  | .complete s out => .next (s.completed out)
  | .raise s e => .next (s.raised e)
  | .fault f => .fault f
  | .refused r => .refused r

/-- `S.RES <- v; complete(S.RES)`, the end of every scalar operation (10_state.md R21). -/
def completeScalar (s : State) (v : BitVec 64) : Reply :=
  .complete { s with res := v } (.scalar v)

/-- `raise IllegalCommand` with the command word (30_encoding.md R102, 60_exceptions.md R263 code 8). -/
def illegalCommand (w : Word) (s : State) : Outcome :=
  finish (.raise s (mkErr .illegalCommand 0 0 w.toNat))

/-! ### Resets and the host's commands -/

/-- Every piece of the spec's state at its reset value (10_state.md R43, 70_reset_and_hazards.md R300). The
configuration is not state; the host's pending operations and the payload in progress are the host's. -/
def State.systemReset (s : State) : State :=
  { State.resetOf s.cfg with cmds := s.cmds, payload := s.payload }

/-- The partial reset of the assembler (44_system.md R242). -/
def State.assemblerReset (s : State) : State := { s with asm := Asm.reset }

/-- The host's next operation taken off the queue, its payload presented to the block. -/
def State.accept (s : State) (cmd : Command) (rest : List Command) : State :=
  { s with cmds := rest, payload := cmd.payload }

/-- The payload "exists only for that operation" (10_state.md R44). -/
def State.dropPayload (s : State) : State := { s with payload := Payload.empty }

/-- The end of a step: the payload of the operation is gone. -/
def closeOperation : Outcome → Outcome
  | .next s => .next s.dropPayload
  | .fault f => .fault f
  | .refused r => .refused r

end Sys2Proof.Machine
end

