-- ==== Sys2Proof/Machine/Operands.lean ====
section
/-!
DEFINITION. The operand forms: the packet layout and its offsets (20_memory.md R61, R65), the fields of a
decoded packet (30_encoding.md R93 to R95, 40_decoder.md R137), the common checks of the field readers
(40_decoder.md R121), and the calibration lookup.
-/

namespace Sys2Proof.Machine

/-! ### Layout -/

/-- COL_LEN, bytes per column record (20_memory.md R61). -/
def colLen (cfg : Cfg) : Nat := 20 + 12 * cfg.N

/-- PKT_LEN, bytes per packet (20_memory.md R61). -/
def pktLen (cfg : Cfg) : Nat := cfg.C * colLen cfg

/-- COL_BASE(c) (20_memory.md R65). -/
def colBase (cfg : Cfg) (c : Nat) : Nat := c * colLen cfg

/-- TS_OFF(c). -/
def tsOff (cfg : Cfg) (c : Nat) : Nat := colBase cfg c

/-- MID_OFF(c). -/
def midOff (cfg : Cfg) (c : Nat) : Nat := colBase cfg c + 8

/-- FID_OFF(c). -/
def fidOff (cfg : Cfg) (c : Nat) : Nat := colBase cfg c + 10

/-- ENC_OFF(c). -/
def encOff (cfg : Cfg) (c : Nat) : Nat := colBase cfg c + 12

/-- PX_BASE(c,k). -/
def pxBase (cfg : Cfg) (c k : Nat) : Nat := colBase cfg c + 16 + 12 * k

/-- DIST_OFF(c,k). -/
def distOff (cfg : Cfg) (c k : Nat) : Nat := pxBase cfg c k

/-- REFL_OFF(c,k). -/
def reflOff (cfg : Cfg) (c k : Nat) : Nat := pxBase cfg c k + 4

/-- SIG_OFF(c,k). -/
def sigOff (cfg : Cfg) (c k : Nat) : Nat := pxBase cfg c k + 6

/-- NOISE_OFF(c,k). -/
def noiseOff (cfg : Cfg) (c k : Nat) : Nat := pxBase cfg c k + 8

/-- MARK_OFF(c). -/
def markOff (cfg : Cfg) (c : Nat) : Nat := colBase cfg c + 16 + 12 * cfg.N

/-! ### Fields of the decoded packet -/

/-- Distance: the low 20 bits of the distance word (30_encoding.md R94). -/
def pixelDist (cfg : Cfg) (m : Memory) (c k : Nat) : BitVec 32 :=
  BitVec.ofNat 32 (memRead m (distOff cfg c k) 4) &&& 0x000FFFFF

/-- Reflectivity (40_decoder.md R124). -/
def pixelRefl (cfg : Cfg) (m : Memory) (c k : Nat) : BitVec 16 :=
  BitVec.ofNat 16 (memRead m (reflOff cfg c k) 2)

/-- Signal intensity (40_decoder.md R125). -/
def pixelSig (cfg : Cfg) (m : Memory) (c k : Nat) : BitVec 16 :=
  BitVec.ofNat 16 (memRead m (sigOff cfg c k) 2)

/-- Noise intensity (40_decoder.md R126). -/
def pixelNoise (cfg : Cfg) (m : Memory) (c k : Nat) : BitVec 16 :=
  BitVec.ofNat 16 (memRead m (noiseOff cfg c k) 2)

/-- Timestamp (40_decoder.md R130). -/
def columnTs (cfg : Cfg) (m : Memory) (c : Nat) : BitVec 64 :=
  BitVec.ofNat 64 (memRead m (tsOff cfg c) 8)

/-- Measurement index (40_decoder.md R131). -/
def columnMid (cfg : Cfg) (m : Memory) (c : Nat) : BitVec 16 :=
  BitVec.ofNat 16 (memRead m (midOff cfg c) 2)

/-- Frame index (40_decoder.md R132). -/
def columnFid (cfg : Cfg) (m : Memory) (c : Nat) : BitVec 16 :=
  BitVec.ofNat 16 (memRead m (fidOff cfg c) 2)

/-- Encoder tick count (40_decoder.md R133). -/
def columnEnc (cfg : Cfg) (m : Memory) (c : Nat) : BitVec 32 :=
  BitVec.ofNat 32 (memRead m (encOff cfg c) 4)

/-- Validity: the marker equals the sentinel (30_encoding.md R95, 40_decoder.md R134). -/
def columnValid (cfg : Cfg) (m : Memory) (c : Nat) : Bool :=
  decide (memRead m (markOff cfg c) 4 = 0xFFFFFFFF)

/-- A one-bit result in `RES`. -/
def boolRes (b : Bool) : BitVec 64 := if b then 1 else 0

/-- Azimuth in UQ.16 degrees: `floor(t * 360 * 65536 / T)` (40_decoder.md R135). -/
def azimuthDegrees (cfg : Cfg) (t : BitVec 32) : BitVec 64 :=
  BitVec.ofNat 64 (t.toNat * 360 * 65536 / cfg.T)

/-- `TWO_PI_Q28`, the integer nearest to 2*pi*2^28 (40_decoder.md R136). -/
def twoPiQ28 : Nat := 1686629713

/-- Azimuth in UQ.28 radians: `floor(t * TWO_PI_Q28 / T)` (40_decoder.md R136). -/
def azimuthRadians (cfg : Cfg) (t : BitVec 32) : BitVec 64 :=
  BitVec.ofNat 64 (t.toNat * twoPiQ28 / cfg.T)

/-! ### The bounds-checked field reader -/

/-- The end of a field read of `width` bytes at `addr` whose value is `v`: MemRead is defined only inside the
packet (00_scope.md R10). -/
def readField (s : State) (addr width : Nat) (v : BitVec 64) : Reply :=
  if addr + width ≤ pktLen s.cfg then completeScalar s v else .fault (.packetAddress addr)

/-- A `COL.*` operation: the checks of 40_decoder.md R121 for format CC, then the read. -/
def columnOp (s : State) (c addr width : Nat) (v : BitVec 64) : Reply :=
  if s.pktOk = false then .raise s (mkErr .notReady 1 0 0)
  else if s.cfg.C ≤ c then .raise s (mkErr .indexOutOfRange 1 s.cfg.C c)
  else readField s addr width v

/-- A `PX.*` operation: the checks of 40_decoder.md R121 for format CK, then the read. -/
def pixelOp (s : State) (c k addr width : Nat) (v : BitVec 64) : Reply :=
  if s.pktOk = false then .raise s (mkErr .notReady 1 0 0)
  else if s.cfg.C ≤ c then .raise s (mkErr .indexOutOfRange 1 s.cfg.C c)
  else if s.cfg.N ≤ k then .raise s (mkErr .indexOutOfRange 2 s.cfg.N k)
  else readField s addr width v

/-! ### The calibration lookup -/

/-- Entry `k` of a table (42_converter.md R173). An index past the list cannot arise in an active table
(41_calibration.md R151; log 19). -/
def laserAt (t : CalTable) (k : Nat) : Laser := t.lasers.getD k default

/-- A field of a table entry (41_calibration.md R157). -/
def laserField (l : Laser) : CalField → BitVec 32
  | .elev => l.elev
  | .azoff => l.azoff
  | .voff => l.voff
  | .hoff => l.hoff

end Sys2Proof.Machine
end

