-- ==== Sys2Proof/Machine/Flags.lean ====
section
/-!
DEFINITION. The flags (10_state.md R25) and every register a host can read or write (R23): the bits of
`CTRL` and `STATUS`, and the views that the read-only registers give of the state.
-/

namespace Sys2Proof.Machine

/-- A flag as a number. -/
def flagBit (b : Bool) : Nat := if b then 1 else 0

/-- The number of a policy in `CTRL.POLICY` (10_state.md R23). -/
def policyNumber : Policy → Nat
  | .last => 0
  | .strongest => 1
  | .dual => 2
  | .runtime => 3

/-- The policy of a two-bit field; all four values are legal (44_system.md R244). -/
def policyOf (v : BitVec 2) : Policy :=
  match v.toNat with
  | 0 => .last
  | 1 => .strongest
  | 2 => .dual
  | _ => .runtime

/-- The value of `PTS_SHAPE` (10_state.md R23). -/
def shapeNumber : Pts → Nat
  | .none => 0
  | .single _ => 1
  | .dual _ => 2

/-- `PTS_N`: points when SINGLE, pairs when DUAL, 0 when NONE (10_state.md R23). -/
def pointCount : Pts → Nat
  | .none => 0
  | .single ps => ps.length
  | .dual ps => ps.length

/-- `LEFT_N`, the leftover point count (10_state.md R39). -/
def leftCount (cfg : Cfg) (a : Asm) : Nat :=
  cfg.beamCount * a.rev.length + a.colbuf.length + a.inq.length

/-- `STATUS` (10_state.md R23). -/
def statusWord (s : State) : Word :=
  BitVec.ofNat 32
    (flagBit s.pktOk + 2 * flagBit s.calOk + 4 * shapeNumber s.pts + 16 * flagBit s.asm.frameValid
      + 32 * flagBit s.asm.fatal + 64 * flagBit s.asm.prevValid)

/-- `CTRL`, its reserved bits reading 0 (10_state.md R23). -/
def ctrlWord (s : State) : Word :=
  BitVec.ofNat 32 (policyNumber s.policy + 4 * flagBit s.dualsel)

/-- A value that reads 0 while its flag is clear (10_state.md R23). -/
def gated (flag : Bool) (v : Word) : Word := if flag then v else 0

/-- The value of register `r` (10_state.md R23), for the eighteen assigned numbers. A count wider than a
register reads its low 32 bits (log 12). -/
def readRegister (s : State) (r : Nat) : Word :=
  match r with
  | 0x00 => ctrlWord s
  | 0x01 => s.retmode.setWidth 32
  | 0x02 => statusWord s
  | 0x03 => BitVec.ofNat 32 (s.err.code.toNat + 256 * s.err.sub.toNat)
  | 0x04 => s.err.info0
  | 0x05 => s.err.info1
  | 0x06 => s.res.extractLsb' 0 32
  | 0x07 => s.res.extractLsb' 32 32
  | 0x08 => BitVec.ofNat 32 (pointCount s.pts)
  | 0x09 => gated s.asm.frameValid (s.asm.frame.height.setWidth 32)
  | 0x0A => gated s.asm.frameValid s.asm.frame.width
  | 0x0B => gated s.asm.frameValid (BitVec.ofNat 32 s.asm.frame.points.length)
  | 0x0C => BitVec.ofNat 32 (leftCount s.cfg s.asm)
  | 0x0D => s.asm.colcnt
  | 0x0E => s.asm.beamNum.setWidth 32
  | 0x0F => s.asm.prevAz
  | 0x10 => s.asm.prevCh.setWidth 32
  | 0x11 => gated s.calOk (s.cal.num.setWidth 32)
  | _ => 0

/-- A write of the 12-bit value `v` to register `r` (44_system.md R244): only `CTRL` and `RETMODE` take one. -/
def writeRegister (s : State) (r : Nat) (v : BitVec 12) : State :=
  match r with
  | 0x00 => { s with policy := policyOf (v.extractLsb' 0 2), dualsel := v.getLsbD 2 }
  | 0x01 => { s with retmode := v.extractLsb' 0 8 }
  | _ => s

/-- The check of a register number (44_system.md R243): 0x11 is the last one. -/
def unassignedRegister (r : Nat) : Bool := decide (0x11 < r)

end Sys2Proof.Machine
end

