-- ==== Sys2Proof/Machine/Converter.lean ====
section
/-!
DEFINITION. The Point Converter operations (42_converter.md): the exact integer geometry datapath, the two
output shapes, and the four policies.
-/

namespace Sys2Proof.Machine

/-! ### The geometry datapath -/

/-- SINQ (42_converter.md R176): the table at the angle reduced to one revolution. -/
def sinq (cfg : Cfg) (a : Int) : Int := cfg.sinTab.getD (a % (cfg.T : Int)).toNat 0

/-- COSQ (42_converter.md R176 (d)). -/
def cosq (cfg : Cfg) (a : Int) : Int := sinq cfg (a + (cfg.T / 4 : Nat))

/-- `asr30(v) = floor(v / 2^30)` (00_scope.md R8). -/
def asr30 (v : Int) : Int := v / 2 ^ 30

/-- The corrected azimuth (42_converter.md R174): the sum in the integers, reduced to 0 .. T-1. -/
def correctedAzimuth (cfg : Cfg) (enc azoff : Int) : Int := (enc + azoff) % (cfg.T : Int)

/-- An exact position in units of 2^-16 mm. -/
structure Position where
  x : Int
  y : Int
  z : Int
deriving DecidableEq, Repr

/-- The projection (42_converter.md R177) of the scaled distance `dq` at elevation `elev` and corrected azimuth
`a`, with the vertical and horizontal offsets. -/
def project (cfg : Cfg) (dq elev a voff hoff : Int) : Position :=
  let plane := asr30 (dq * cosq cfg elev - voff * sinq cfg elev)
  { x := asr30 (plane * sinq cfg a - hoff * cosq cfg a)
    y := asr30 (plane * cosq cfg a + hoff * sinq cfg a)
    z := asr30 (dq * sinq cfg elev + voff * cosq cfg elev) }

/-- The position of the firing of channel `k` in column `c` (42_converter.md R173 to R177): the distance scaled by
the table's resolution (R175), entry `k` of the table for channel `k`. -/
def positionOf (cfg : Cfg) (m : Memory) (cal : CalTable) (c k : Nat) : Position :=
  let laser := laserAt cal k
  let dq : Int := (pixelDist cfg m c k).toNat * cal.res.toInt
  let a := correctedAzimuth cfg ((columnEnc cfg m c).toNat : Int) laser.azoff.toInt
  project cfg dq laser.elev.toInt a laser.voff.toInt laser.hoff.toInt

/-- `Pt(c, k, tag)` (42_converter.md R178). -/
def pointAt (cfg : Cfg) (m : Memory) (cal : CalTable) (c k : Nat) (tag : Ret) : Point :=
  let p := positionOf cfg m cal c k
  { x := BitVec.ofInt 64 p.x
    y := BitVec.ofInt 64 p.y
    z := BitVec.ofInt 64 p.z
    refl := pixelRefl cfg m c k
    sig := pixelSig cfg m c k
    noise := pixelNoise cfg m c k
    az := columnEnc cfg m c
    ch := BitVec.ofNat 16 k
    col := 0
    ts := columnTs cfg m c
    valid := columnValid cfg m c
    ret := tag }

/-! ### Output shapes -/

/-- `Single(g)` (42_converter.md R179): columns outer, channels inner. -/
def singlePoints (cfg : Cfg) (m : Memory) (cal : CalTable) (tag : Ret) : List Point :=
  (List.range cfg.C).flatMap fun c => (List.range cfg.N).map fun k => pointAt cfg m cal c k tag

/-- `Dual` (42_converter.md R181): columns 2j and 2j+1 are the last and the strongest return of one firing. -/
def dualPairs (cfg : Cfg) (m : Memory) (cal : CalTable) : List (Point × Point) :=
  (List.range (cfg.C / 2)).flatMap fun j => (List.range cfg.N).map fun k =>
    (pointAt cfg m cal (2 * j) k .last, pointAt cfg m cal (2 * j + 1) k .strongest)

/-- What a policy asks of one packet: single with a tag, or dual. -/
inductive Form where
  | single (tag : Ret)
  | dual
deriving DecidableEq, Repr

/-- The known return-mode bytes (30_encoding.md R98, 42_converter.md R185). -/
def formOfReturnMode (byte : BitVec 8) : Option Form :=
  match byte.toNat with
  | 0x37 => some (.single .strongest)
  | 0x38 => some (.single .last)
  | 0x39 => some .dual
  | _ => none

/-- Step 3 of 42_converter.md R171: the policy resolved; only RUNTIME reads the return-mode byte. -/
def resolvePolicy (policy : Policy) (byte : BitVec 8) : Option Form :=
  match policy with
  | .last => some (.single .last)
  | .strongest => some (.single .strongest)
  | .dual => some .dual
  | .runtime => formOfReturnMode byte

/-- Any raise of a `CVT.*` first empties the result (42_converter.md R171). -/
def conversionFails (s : State) (e : ErrRec) : Reply := .raise { s with pts := .none } e

/-- A conversion completes with its tagged result (42_converter.md R182 to R185). -/
def conversionGives (s : State) (p : Pts) : Reply := .complete { s with pts := p } (.points p)

/-- A conversion under a policy (42_converter.md R171, R182 to R185), also the second stage of `PROC`. The dual
shape with C odd has no meaning (R181; log 9). -/
def convert (policy : Policy) (s : State) : Reply :=
  if s.pktOk = false then conversionFails s (mkErr .notReady 1 0 0)
  else if s.calOk = false then conversionFails s (mkErr .notReady 2 0 0)
  else
    match resolvePolicy policy s.retmode with
    | none => conversionFails s (mkErr .unknownReturnMode 0 0 s.retmode.toNat)
    | some form =>
      if s.cal.num.toNat ≠ s.cfg.N then
        conversionFails s (mkErr .channelCountMismatch 0 s.cfg.N s.cal.num.toNat)
      else
        match form with
        | .single tag => conversionGives s (.single (singlePoints s.cfg s.pkt s.cal tag))
        | .dual =>
          if s.cfg.C % 2 = 1 then .refused .dualShapeOddColumns
          else conversionGives s (.dual (dualPairs s.cfg s.pkt s.cal))

/-- `CVT.LAST` (42_converter.md R182). -/
def execCvtLast (s : State) : Outcome := finish (convert .last s)

/-- `CVT.STRONGEST` (42_converter.md R183). -/
def execCvtStrongest (s : State) : Outcome := finish (convert .strongest s)

/-- `CVT.DUAL` (42_converter.md R184). -/
def execCvtDual (s : State) : Outcome := finish (convert .dual s)

/-- `CVT.RUNTIME` (42_converter.md R185). -/
def execCvtRuntime (s : State) : Outcome := finish (convert .runtime s)

end Sys2Proof.Machine
end

