-- ==== Sys2Proof/Machine/Decoder.lean ====
section
/-!
DEFINITION. The Packet Layout Decoder operations (40_decoder.md R122 to R136).
-/

namespace Sys2Proof.Machine

/-- `PKT.LOAD rx` (40_decoder.md R122), also the first stage of `PROC`. A failed load leaves no packet view;
the bytes behind the clear flag are unreadable and stay as they are (log 10). -/
def loadPacket (rx : List Byte) (s : State) : Reply :=
  if rx.length = pktLen s.cfg then
    .complete { s with pkt := Memory.ofBytes rx, pktOk := true } .none
  else
    .raise { s with pktOk := false } (mkErr .malformedPacket 0 (pktLen s.cfg) rx.length)

/-- `PKT.LOAD` (40_decoder.md R122). -/
def execPktLoad (s : State) : Outcome := finish (loadPacket s.payload.rx s)

/-- `PX.DIST c, k` (40_decoder.md R123). -/
def execPxDist (c k : Nat) (s : State) : Outcome :=
  finish (pixelOp s c k (distOff s.cfg c k) 4 ((pixelDist s.cfg s.pkt c k).setWidth 64))

/-- `PX.REFL c, k` (40_decoder.md R124). -/
def execPxRefl (c k : Nat) (s : State) : Outcome :=
  finish (pixelOp s c k (reflOff s.cfg c k) 2 ((pixelRefl s.cfg s.pkt c k).setWidth 64))

/-- `PX.SIG c, k` (40_decoder.md R125). -/
def execPxSig (c k : Nat) (s : State) : Outcome :=
  finish (pixelOp s c k (sigOff s.cfg c k) 2 ((pixelSig s.cfg s.pkt c k).setWidth 64))

/-- `PX.NOISE c, k` (40_decoder.md R126). -/
def execPxNoise (c k : Nat) (s : State) : Outcome :=
  finish (pixelOp s c k (noiseOff s.cfg c k) 2 ((pixelNoise s.cfg s.pkt c k).setWidth 64))

/-- `COL.TS c` (40_decoder.md R130). -/
def execColTs (c : Nat) (s : State) : Outcome :=
  finish (columnOp s c (tsOff s.cfg c) 8 (columnTs s.cfg s.pkt c))

/-- `COL.MID c` (40_decoder.md R131). -/
def execColMid (c : Nat) (s : State) : Outcome :=
  finish (columnOp s c (midOff s.cfg c) 2 ((columnMid s.cfg s.pkt c).setWidth 64))

/-- `COL.FID c` (40_decoder.md R132). -/
def execColFid (c : Nat) (s : State) : Outcome :=
  finish (columnOp s c (fidOff s.cfg c) 2 ((columnFid s.cfg s.pkt c).setWidth 64))

/-- `COL.ENC c` (40_decoder.md R133). -/
def execColEnc (c : Nat) (s : State) : Outcome :=
  finish (columnOp s c (encOff s.cfg c) 4 ((columnEnc s.cfg s.pkt c).setWidth 64))

/-- `COL.VALID c` (40_decoder.md R134). -/
def execColValid (c : Nat) (s : State) : Outcome :=
  finish (columnOp s c (markOff s.cfg c) 4 (boolRes (columnValid s.cfg s.pkt c)))

/-- `COL.AZDEG c` (40_decoder.md R135). -/
def execColAzdeg (c : Nat) (s : State) : Outcome :=
  finish (columnOp s c (encOff s.cfg c) 4 (azimuthDegrees s.cfg (columnEnc s.cfg s.pkt c)))

/-- `COL.AZRAD c` (40_decoder.md R136). -/
def execColAzrad (c : Nat) (s : State) : Outcome :=
  finish (columnOp s c (encOff s.cfg c) 4 (azimuthRadians s.cfg (columnEnc s.cfg s.pkt c)))

end Sys2Proof.Machine
end

