-- ==== Sys2Proof/Machine/Assembler.lean ====
section
/-!
DEFINITION. The Frame Assembler (43_assembler.md): the per-point transition STEP, the loop RUN, `ASM.PUSH`,
and the whole pipeline `PROC`.
-/

namespace Sys2Proof.Machine

/-! ### The per-point transition -/

/-- The result of STEP: the assembler after it, or the fatal error it raises (43_assembler.md R224). -/
inductive PointResult where
  | ok (a : Asm)
  | raise (e : ErrRec)
deriving DecidableEq, Repr

/-- Column boundary (43_assembler.md R204): the channel index decreases. -/
def columnBoundary (a : Asm) (p : Point) : Bool := a.prevValid && decide (p.ch < a.prevCh)

/-- Revolution boundary (43_assembler.md R204): the raw azimuth decreases. -/
def revolutionBoundary (a : Asm) (p : Point) : Bool := a.prevValid && decide (p.az < a.prevAz)

/-- The detected beam count of a completed column: its last channel index + 1 (43_assembler.md R207). -/
def detectedBeams (column : List Point) : BitVec 16 :=
  match column.getLast? with
  | some p => p.ch + 1
  | none => 0

/-- Column flush with its length check (43_assembler.md R205 to R207). -/
def flushColumn (cfg : Cfg) (a : Asm) : PointResult :=
  if a.colbuf.length ≠ cfg.beamCount then
    .raise (mkErr .frameAssemblyError 1 cfg.beamCount a.colbuf.length)
  else if cfg.revCap = some a.rev.length then
    .raise (mkErr .bufferOverflow 2 a.rev.length a.rev.length)
  else
    .ok { a with
      beamNum := detectedBeams a.colbuf
      rev := a.rev ++ [a.colbuf]
      colbuf := []
      colcnt := a.colcnt + 1 }

/-- `p` put before the first point of a higher channel, so behind its equals. -/
def insertByChannel (p : Point) : List Point → List Point
  | [] => [p]
  | q :: qs => if p.ch < q.ch then p :: q :: qs else q :: insertByChannel p qs

/-- `stable_sort_by ch` (00_scope.md R10): ascending channel, equal channels in input order. -/
def sortByChannel (column : List Point) : List Point :=
  column.foldl (fun sorted p => insertByChannel p sorted) []

/-- Frame finalisation (43_assembler.md R208): the completed columns in completion order, each sorted. -/
def finaliseFrame (a : Asm) : Asm :=
  { a with
    frame :=
      { points := a.rev.flatMap sortByChannel
        height := a.beamNum
        width := BitVec.ofNat 32 a.rev.length }
    frameValid := true
    rev := []
    colcnt := 0 }

/-- Append (43_assembler.md R209): the point takes the column counter and becomes the previous point. -/
def appendPoint (a : Asm) (p : Point) : Asm :=
  { a with
    colbuf := a.colbuf ++ [{ p with col := a.colcnt }]
    prevCh := p.ch
    prevAz := p.az
    prevValid := true }

/-- The flush of STEP, taken at a column boundary only. -/
def flushIfBoundary (cfg : Cfg) (a : Asm) (p : Point) : PointResult :=
  if columnBoundary a p then flushColumn cfg a else .ok a

/-- The finalisation of STEP, taken at a revolution boundary with completed columns only (43_assembler.md R208). -/
def finaliseIfBoundary (boundary : Bool) (a : Asm) : Asm :=
  if boundary && !a.rev.isEmpty then finaliseFrame a else a

/-- STEP(p) (43_assembler.md R201): detection, column flush, frame finalisation, append. Both tests are taken
before any state changes (R204). -/
def stepPoint (cfg : Cfg) (a : Asm) (p : Point) : PointResult :=
  match flushIfBoundary cfg a p with
  | .raise e => .raise e
  | .ok flushed => .ok (appendPoint (finaliseIfBoundary (revolutionBoundary a p) flushed) p)

/-! ### The loop -/

/-- The result of RUN: the assembler after it, and the fatal error that stopped it, if one did. -/
structure RunResult where
  asm    : Asm
  raised : Option ErrRec
deriving DecidableEq, Repr

/-- FATAL set and the error latched (43_assembler.md R224). -/
def latchFatal (a : Asm) (e : ErrRec) : Asm := { a with fatal := true, fatalErr := e }

/-- RUN (43_assembler.md R221) on a queue: points pass through STEP from the head until the queue is empty or a
frame is valid. A point whose STEP raises stays at the head (R224). -/
def runQueue (cfg : Cfg) : List Point → Asm → RunResult
  | [], a => { asm := { a with inq := [] }, raised := none }
  | p :: rest, a =>
    if a.frameValid then { asm := { a with inq := p :: rest }, raised := none }
    else
      match stepPoint cfg a p with
      | .raise e => { asm := latchFatal { a with inq := p :: rest } e, raised := some e }
      | .ok a' => runQueue cfg rest a'

/-! ### ASM.PUSH and PROC -/

/-- Feed (43_assembler.md R219): the points themselves, or the member of each pair that DUALSEL selects. -/
def feed (dualsel : Bool) : Pts → List Point
  | .none => []
  | .single ps => ps
  | .dual pairs => pairs.map fun pair => if dualsel then pair.2 else pair.1

/-- More points than a capacity; never of an unbounded one (00_scope.md R6). -/
def exceeds (cap : Option Nat) (n : Nat) : Bool :=
  match cap with
  | none => false
  | some limit => decide (limit < n)

/-- The optional frame of an operation (43_assembler.md R222). -/
def emittedFrame (a : Asm) : Option Frame := if a.frameValid then some a.frame else none

/-- The frame slot cleared by an accepted push (43_assembler.md R220). -/
def clearFrame (a : Asm) : Asm := { a with frameValid := false, frame := Frame.empty }

/-- A batch accepted and run (43_assembler.md R218 from its acceptance, R220 to R222). -/
def runBatch (batch : List Point) (s : State) : Reply :=
  let a := clearFrame s.asm
  let r := runQueue s.cfg (a.inq ++ batch) a
  match r.raised with
  | some e => .raise { s with asm := r.asm } e
  | none => .complete { s with asm := r.asm } (.frame (emittedFrame r.asm))

/-- The capacity check of the pending-input queue (43_assembler.md R218); what follows it is `accepted`. -/
def withRoom (batch : List Point) (s : State) (accepted : Reply) : Reply :=
  let total := s.asm.inq.length + batch.length
  if exceeds s.cfg.inqCap total then
    .raise s (mkErr .bufferOverflow 1 (s.cfg.inqCap.getD 0) total)
  else accepted

/-- `ASM.PUSH PTS`: the converter result is consumed if it is accepted (43_assembler.md R218). -/
def pushConverted (s : State) : Reply :=
  match s.pts with
  | .none => .raise s (mkErr .notReady 3 0 0)
  | .single ps => withRoom ps s (runBatch ps { s with pts := .none })
  | .dual pairs =>
    withRoom (feed s.dualsel (.dual pairs)) s
      (runBatch (feed s.dualsel (.dual pairs)) { s with pts := .none })

/-- `ASM.PUSH` (43_assembler.md R218), also the last stage of `PROC`. -/
def pushPoints (src : PushSource) (s : State) : Reply :=
  if s.asm.fatal then .raise s s.asm.fatalErr
  else
    match src with
    | .pts => pushConverted s
    | .host => withRoom s.payload.pts s (runBatch s.payload.pts s)

/-- `ASM.PUSH s` (43_assembler.md R218). -/
def execAsmPush (src : PushSource) (s : State) : Outcome := finish (pushPoints src s)

/-- The next stage of `PROC`, run only if the one before completed (43_assembler.md R230). -/
def andThen (r : Reply) (stage : State → Reply) : Reply :=
  match r with
  | .complete s _ => stage s
  | .raise s e => .raise s e
  | .fault f => .fault f
  | .refused w => .refused w

/-- `PROC rx` (43_assembler.md R230): load, convert under `CTRL.POLICY`, push the result. -/
def processPacket (rx : List Byte) (s : State) : Reply :=
  if s.asm.fatal then .raise s s.asm.fatalErr
  else andThen (andThen (loadPacket rx s) (fun s1 => convert s1.policy s1)) (pushPoints .pts)

/-- `PROC` (43_assembler.md R230). -/
def execProc (s : State) : Outcome := finish (processPacket s.payload.rx s)

end Sys2Proof.Machine
end

