-- ==== Sys2Proof/Machine/Calibration.lean ====
section
/-!
DEFINITION. The Calibration Model operations (41_calibration.md R152 to R159).
-/

namespace Sys2Proof.Machine

/-- `CAL.BUILTIN m` (41_calibration.md R152). -/
def loadBuiltin (m : Nat) (s : State) : Reply :=
  match s.cfg.builtin[m]? with
  | none => .raise s (mkErr .indexOutOfRange 3 s.cfg.builtin.length m)
  | some t => .complete { s with cal := t, calOk := true } .none

/-- `CAL.BUILTIN m` (41_calibration.md R152). -/
def execCalBuiltin (m : Nat) (s : State) : Outcome := finish (loadBuiltin m s)

/-- Check 3 of 41_calibration.md R153: the first record whose index is not its expected one, with both. -/
def firstBadIndex : Nat → List CalRecord → Option (Nat × Nat)
  | _, [] => none
  | expected, r :: rs =>
    if r.index.toNat = expected then firstBadIndex (expected + 1) rs
    else some (expected, r.index.toNat)

/-- The entry of a record (41_calibration.md R153, R154): its index is not stored. -/
def laserOfRecord (r : CalRecord) : Laser where
  elev := r.elev
  azoff := r.azoff
  voff := r.voff
  hoff := r.hoff

/-- The table built from a checked payload (41_calibration.md R153). -/
def tableOfPayload (tbl : CalPayload) : CalTable where
  num := BitVec.ofNat 16 tbl.records.length
  res := tbl.distanceResolution
  lasers := tbl.records.map laserOfRecord

/-- `CAL.EXT tbl` (41_calibration.md R153): the checks in their order; all or nothing (R155). -/
def loadExternal (tbl : CalPayload) (s : State) : Reply :=
  if tbl.distanceResolution.toInt ≤ 0 then
    .raise s (mkErr .calibrationError 1 0 tbl.distanceResolution.toNat)
  else if tbl.numLasers.toNat ≠ tbl.records.length then
    .raise s (mkErr .calibrationError 2 tbl.numLasers.toNat tbl.records.length)
  else
    match firstBadIndex s.cfg.calOrigin tbl.records with
    | some (expected, actual) => .raise s (mkErr .calibrationError 3 expected actual)
    | none =>
      if s.cfg.calCap < tbl.records.length then
        .raise s (mkErr .bufferOverflow 3 s.cfg.calCap tbl.records.length)
      else .complete { s with cal := tableOfPayload tbl, calOk := true } .none

/-- `CAL.EXT` (41_calibration.md R153). -/
def execCalExt (s : State) : Outcome := finish (loadExternal s.payload.tbl s)

/-- `CAL.GET f, k` (41_calibration.md R157): the field, sign-extended. -/
def execCalGet (f : CalField) (k : Nat) (s : State) : Outcome :=
  finish
    (if s.calOk = false then .raise s (mkErr .notReady 2 0 0)
     else if s.cal.num.toNat ≤ k then .raise s (mkErr .indexOutOfRange 2 s.cal.num.toNat k)
     else completeScalar s ((laserField (laserAt s.cal k) f).signExtend 64))

/-- `CAL.RES` (41_calibration.md R158). -/
def execCalRes (s : State) : Outcome :=
  finish
    (if s.calOk = false then .raise s (mkErr .notReady 2 0 0)
     else completeScalar s (s.cal.res.signExtend 64))

/-- `CAL.NUM` (41_calibration.md R159). -/
def execCalNum (s : State) : Outcome :=
  finish
    (if s.calOk = false then .raise s (mkErr .notReady 2 0 0)
     else completeScalar s (s.cal.num.setWidth 64))

end Sys2Proof.Machine
end

