-- ==== Sys2Proof/Machine/System.lean ====
section
/-!
DEFINITION. The system operations (44_system.md R240 to R244).
-/

namespace Sys2Proof.Machine

/-- `NOP` (44_system.md R240): nothing but the completion registers. -/
def execNop (s : State) : Outcome := finish (.complete s .none)

/-- `SYS.RESET` (44_system.md R241). -/
def execSysReset (s : State) : Outcome := finish (.complete s.systemReset .none)

/-- `ASM.RESET` (44_system.md R242). -/
def execAsmReset (s : State) : Outcome := finish (.complete s.assemblerReset .none)

/-- `CSR.RD r` (44_system.md R243). The value is read before this operation's own completion write. -/
def execCsrRd (r : Nat) (s : State) : Outcome :=
  finish
    (if unassignedRegister r then .raise s (mkErr .indexOutOfRange 4 0x12 r)
     else completeScalar s ((readRegister s r).setWidth 64))

/-- `CSR.WR r, v` (44_system.md R244). -/
def execCsrWr (r : Nat) (v : BitVec 12) (s : State) : Outcome :=
  finish
    (if unassignedRegister r then .raise s (mkErr .indexOutOfRange 4 0x12 r)
     else .complete (writeRegister s r v) .none)

end Sys2Proof.Machine
end

