-- ==== Sys2Proof/Machine/Dispatch.lean ====
section
/-!
DEFINITION. The dispatch: one arm per operation of spec/opcode_table.json, each one direct call of its meaning.
-/

namespace Sys2Proof.Machine

open Sys2Proof

/-- The effect of one operation on the state (60_exceptions.md R262). -/
def exec (i : Instr) (s : State) : Host.Outcome State Fault Refusal :=
  match i with
  | .nop => Sys2Proof.Machine.execNop s
  | .sysReset => Sys2Proof.Machine.execSysReset s
  | .asmReset => Sys2Proof.Machine.execAsmReset s
  | .csrRd r => Sys2Proof.Machine.execCsrRd r s
  | .csrWr r v => Sys2Proof.Machine.execCsrWr r v s
  | .pktLoad => Sys2Proof.Machine.execPktLoad s
  | .pxDist c k => Sys2Proof.Machine.execPxDist c k s
  | .pxRefl c k => Sys2Proof.Machine.execPxRefl c k s
  | .pxSig c k => Sys2Proof.Machine.execPxSig c k s
  | .pxNoise c k => Sys2Proof.Machine.execPxNoise c k s
  | .colTs c => Sys2Proof.Machine.execColTs c s
  | .colMid c => Sys2Proof.Machine.execColMid c s
  | .colFid c => Sys2Proof.Machine.execColFid c s
  | .colEnc c => Sys2Proof.Machine.execColEnc c s
  | .colValid c => Sys2Proof.Machine.execColValid c s
  | .colAzdeg c => Sys2Proof.Machine.execColAzdeg c s
  | .colAzrad c => Sys2Proof.Machine.execColAzrad c s
  | .calBuiltin m => Sys2Proof.Machine.execCalBuiltin m s
  | .calExt => Sys2Proof.Machine.execCalExt s
  | .calGet f k => Sys2Proof.Machine.execCalGet f k s
  | .calRes => Sys2Proof.Machine.execCalRes s
  | .calNum => Sys2Proof.Machine.execCalNum s
  | .cvtLast => Sys2Proof.Machine.execCvtLast s
  | .cvtStrongest => Sys2Proof.Machine.execCvtStrongest s
  | .cvtDual => Sys2Proof.Machine.execCvtDual s
  | .cvtRuntime => Sys2Proof.Machine.execCvtRuntime s
  | .asmPush src => Sys2Proof.Machine.execAsmPush src s
  | .proc => Sys2Proof.Machine.execProc s

end Sys2Proof.Machine
end

