-- ==== Sys2Proof/Machine/Issue.lean ====
section
/-!
DEFINITION. How one step takes the host's next operation: decode of its command word, the operation or
IllegalCommand, and the end of its payload. There is no program counter and no fetch (10_state.md R24).
-/

namespace Sys2Proof.Machine

open Sys2Proof

/-- What a command word does (30_encoding.md R102): its operation, or IllegalCommand. -/
def performWord (w : Word) (s : State) : Outcome :=
  match decode w with
  | .ok i => exec i s
  | .reservedOpcode => illegalCommand w s
  | .mustBeZero => illegalCommand w s

/-- One step (10_state.md R20): the host's next operation, run to completion. With no operation issued the block
waits (log 5). The configuration is not checked: nobody does at run time (70_reset_and_hazards.md R302; log 4). -/
def issue (s : State) : Outcome :=
  match s.cmds with
  | [] => .next s
  | cmd :: rest => closeOperation (performWord cmd.word (s.accept cmd rest))

/-- The command word of the numbered bits `w` (spec/opcode_table.json), placed as the host's next operation with
no payload. -/
def State.withCommand (s : State) (w : Word) : State :=
  { s with cmds := { word := w, payload := Payload.empty } :: s.cmds }

end Sys2Proof.Machine
end

