-- ==== Sys2Proof/Machine/Step.lean ====
section
/-!
DEFINITION. The step of the machine, and where the next instruction stands.
-/

namespace Sys2Proof.Machine

/-- One step: one operation of the host (10_state.md R20, 70_reset_and_hazards.md R320). -/
def step (s : State) : Host.Outcome State Fault Refusal := issue s

/-- `s` with the command word of bits `w` as the host's next operation (log 7). -/
def State.withFetchWord (s : State) (nbits w : Nat) : State :=
  s.withCommand (BitVec.ofNat 32 (w % 2 ^ nbits))

end Sys2Proof.Machine
end

