-- ==== Sys2Proof/Safety.lean ====
section
/-!
DEFINITION. What holds at every operation boundary after reset, in the terms claims use: the invariants of
10_state.md R41, the capacities of R32 and R33, the table of 41_calibration.md R151, the shapes of
42_converter.md R179 and R181, and the fatal condition of 43_assembler.md R224.
-/

namespace Sys2Proof.Machine

open Sys2Proof

/-- Channel indices in non-decreasing order, the form of every column (10_state.md R41 (c)). -/
abbrev ChannelsRise (column : List Point) : Prop := column.Pairwise (fun p q => p.ch.toNat ≤ q.ch.toNat)

/-- A count within a capacity; every count is within an unbounded one (00_scope.md R6). -/
abbrev WithinCap (cap : Option Nat) (n : Nat) : Prop := ∀ limit ∈ cap, n ≤ limit

/-- The invariants of the assembler. `counted` to `framed` are 10_state.md R41 (a) to (f); `fresh` says that
nothing is buffered before the first point. -/
structure Asm.Inv (cfg : Cfg) (a : Asm) : Prop where
  counted : a.colcnt = BitVec.ofNat 32 a.rev.length
  columnsFull : ∀ column ∈ a.rev, column.length = cfg.beamCount
  columnsRise : ∀ column ∈ a.rev, ChannelsRise column
  bufferRises : ChannelsRise a.colbuf
  previous : a.prevValid = true →
    ∃ p, a.colbuf.getLast? = some p ∧ a.prevCh = p.ch ∧ a.prevAz = p.az
  fresh : a.prevValid = false → a.colbuf = [] ∧ a.rev = []
  beams : ∀ column, a.rev.getLast? = some column →
    ∃ p, column.getLast? = some p ∧ a.beamNum = p.ch + 1
  framed : a.frameValid = true →
    ∃ w, 1 ≤ w ∧ WithinCap cfg.revCap w ∧ a.frame.width = BitVec.ofNat 32 w ∧
      a.frame.points.length = cfg.beamCount * w
  unframed : a.frameValid = false → a.frame = Frame.empty
  revFits : WithinCap cfg.revCap a.rev.length
  inqFits : WithinCap cfg.inqCap a.inq.length
  healthy : a.fatal = false → a.fatalErr = ErrRec.ok
  stopped : a.fatal = true → a.frameValid = false ∧ a.inq ≠ [] ∧
    ((a.fatalErr.code = 4 ∧ a.fatalErr.sub = 1) ∨ (a.fatalErr.code = 9 ∧ a.fatalErr.sub = 2))

/-- The length of a converter result (42_converter.md R179, R181). -/
def Pts.Shaped (cfg : Cfg) : Pts → Prop
  | .none => True
  | .single points => points.length = cfg.C * cfg.N
  | .dual pairs => cfg.C % 2 = 0 ∧ pairs.length = cfg.C / 2 * cfg.N

/-- The invariants of the block in a well-formed configuration (70_reset_and_hazards.md R302). -/
structure State.Inv (s : State) : Prop where
  configured : s.cfg.Wf
  packetCanonical : s.pkt.Wf
  packetInside : ∀ cell ∈ s.pkt, cell.1 < pktLen s.cfg
  tableActive : s.calOk = true → s.cal.Wf s.cfg.calCap
  shaped : s.pts.Shaped s.cfg
  assembler : s.asm.Inv s.cfg

/-- A step, or one operation, does not stop the model's machine. -/
def Goes (o : Outcome) : Prop := ∃ t, o = .next t

/-- The operations that never touch the assembler's state (42_converter.md R170, 43_assembler.md R224): all but
the two that feed it and the two that reset it. -/
def leavesAssembler : Instr → Bool
  | .nop => true
  | .sysReset => false
  | .asmReset => false
  | .csrRd _ => true
  | .csrWr _ _ => true
  | .pktLoad => true
  | .pxDist _ _ => true
  | .pxRefl _ _ => true
  | .pxSig _ _ => true
  | .pxNoise _ _ => true
  | .colTs _ => true
  | .colMid _ => true
  | .colFid _ => true
  | .colEnc _ => true
  | .colValid _ => true
  | .colAzdeg _ => true
  | .colAzrad _ => true
  | .calBuiltin _ => true
  | .calExt => true
  | .calGet _ _ => true
  | .calRes => true
  | .calNum => true
  | .cvtLast => true
  | .cvtStrongest => true
  | .cvtDual => true
  | .cvtRuntime => true
  | .asmPush _ => false
  | .proc => false

end Sys2Proof.Machine
end

