-- ==== Sys2Proof/Certificates/Slice0/Obligations.lean ====
section
/-!
DEFINITION. The statements for the provers. Each says in its docstring which rule of spec/ it formalises. The
words of the packet, the results and the completions are written out here from the rules, not through the
model's own helpers, wherever the rule gives a formula.
-/

namespace Sys2Proof.Claims

open Sys2Proof Sys2Proof.Machine

/-! ### Vocabulary -/

/-- An operation completes OK: the four completion registers are 0 (10_state.md R22), nothing else differs from `s`. -/
def completesOk (s : State) (out : Output) : Outcome :=
  .next { s with err := { code := 0, sub := 0, info0 := 0, info1 := 0 }, output := out }

/-- An operation completes with an error (60_exceptions.md R262), nothing else differs from `s`. -/
def failsWith (s : State) (code sub : BitVec 8) (expected actual : Nat) : Outcome :=
  .next { s with
    err := { code := code, sub := sub, info0 := BitVec.ofNat 32 expected, info1 := BitVec.ofNat 32 actual }
    output := .none }

/-- A scalar operation completes with `value` in `RES`, which holds it exactly (10_state.md R21). -/
def scalarResult (o : Outcome) (s : State) (value : Nat) : Prop :=
  ∃ v : BitVec 64, v.toNat = value ∧ o = completesOk { s with res := v } (.scalar v)

/-- Byte `a` of the packet. -/
def byteAt (s : State) (a : Nat) : Nat := (Memory.readByte s.pkt a).toNat

/-- Two bytes, little-endian (20_memory.md R62). -/
def word2 (s : State) (a : Nat) : Nat := byteAt s a + 2 ^ 8 * byteAt s (a + 1)

/-- Four bytes, little-endian (20_memory.md R62). -/
def word4 (s : State) (a : Nat) : Nat := word2 s a + 2 ^ 16 * word2 s (a + 2)

/-- Eight bytes, little-endian (20_memory.md R62). -/
def word8 (s : State) (a : Nat) : Nat := word4 s a + 2 ^ 32 * word4 s (a + 4)

/-- Four bytes at offset `a` of the packet that the host presents, little-endian (20_memory.md R62). -/
def payloadWord4 (s : State) (a : Nat) : Nat :=
  let b := fun i : Nat => (s.payload.rx.getD (a + i) 0).toNat
  b 0 + 2 ^ 8 * b 1 + 2 ^ 16 * b 2 + 2 ^ 24 * b 3

/-- Where column record `c` starts (20_memory.md R61). -/
def colStart (s : State) (c : Nat) : Nat := c * (20 + 12 * s.cfg.N)

/-- Where pixel record `k` of column `c` starts (20_memory.md R61). -/
def pxStart (s : State) (c k : Nat) : Nat := c * (20 + 12 * s.cfg.N) + 16 + 12 * k

/-- The whole rule of a `COL.*` operation: its word, the checks of 40_decoder.md R121 in their order, its result. -/
def ColumnReads (op : Nat) (i : Nat → Instr) (value : State → Nat → Nat) : Prop :=
  (∀ c, c < 4096 → decode (BitVec.ofNat 32 (op * 2 ^ 24 + c * 2 ^ 12)) = .ok (i c)) ∧
  ∀ s c,
    (s.pktOk = false → exec (i c) s = failsWith s 6 1 0 0) ∧
    (s.pktOk = true → s.cfg.C ≤ c → exec (i c) s = failsWith s 7 1 s.cfg.C c) ∧
    (s.pktOk = true → c < s.cfg.C → scalarResult (exec (i c) s) s (value s c))

/-- The whole rule of a `PX.*` operation: its word, the checks of 40_decoder.md R121 in their order, its result. -/
def PixelReads (op : Nat) (i : Nat → Nat → Instr) (value : State → Nat → Nat → Nat) : Prop :=
  (∀ c k, c < 4096 → k < 4096 →
    decode (BitVec.ofNat 32 (op * 2 ^ 24 + c * 2 ^ 12 + k)) = .ok (i c k)) ∧
  ∀ s c k,
    (s.pktOk = false → exec (i c k) s = failsWith s 6 1 0 0) ∧
    (s.pktOk = true → s.cfg.C ≤ c → exec (i c k) s = failsWith s 7 1 s.cfg.C c) ∧
    (s.pktOk = true → c < s.cfg.C → s.cfg.N ≤ k → exec (i c k) s = failsWith s 7 2 s.cfg.N k) ∧
    (s.pktOk = true → c < s.cfg.C → k < s.cfg.N → scalarResult (exec (i c k) s) s (value s c k))

/-- The rows of spec/opcode_table.json: mask and match. -/
def opcodeTable : List (Word × Word) :=
  [(0xFFFFFFFF, 0x00000000), (0xFFFFFFFF, 0x01000000), (0xFFFFFFFF, 0x02000000), (0xFF000FFF, 0x04000000),
   (0xFF000000, 0x05000000), (0xFFFFFFFF, 0x10000000), (0xFF000000, 0x11000000), (0xFF000000, 0x12000000),
   (0xFF000000, 0x13000000), (0xFF000000, 0x14000000), (0xFF000FFF, 0x18000000), (0xFF000FFF, 0x19000000),
   (0xFF000FFF, 0x1A000000), (0xFF000FFF, 0x1B000000), (0xFF000FFF, 0x1C000000), (0xFF000FFF, 0x1D000000),
   (0xFF000FFF, 0x1E000000), (0xFFFFF000, 0x20000000), (0xFFFFFFFF, 0x21000000), (0xFFFFC000, 0x22000000),
   (0xFFFFFFFF, 0x23000000), (0xFFFFFFFF, 0x24000000), (0xFFFFFFFF, 0x30000000), (0xFFFFFFFF, 0x31000000),
   (0xFFFFFFFF, 0x32000000), (0xFFFFFFFF, 0x33000000), (0xFFFFFFFE, 0x40000000), (0xFFFFFFFF, 0x41000000)]

/-- The reset values of 10_state.md R43, for every piece of state to which it gives one. -/
def AtReset (s : State) : Prop :=
  s.policy = .last ∧ s.dualsel = false ∧ s.retmode = 0 ∧ s.pktOk = false ∧ s.calOk = false ∧ s.pts = .none ∧
  s.asm.inq = [] ∧ s.asm.rev = [] ∧ s.asm.colbuf = [] ∧
  s.asm.prevValid = false ∧ s.asm.prevAz = 0 ∧ s.asm.prevCh = 0 ∧ s.asm.colcnt = 0 ∧ s.asm.beamNum = 0 ∧
  s.asm.fatal = false ∧ s.asm.fatalErr = { code := 0, sub := 0, info0 := 0, info1 := 0 } ∧
  s.asm.frameValid = false ∧ s.asm.frame = { points := [], height := 0, width := 0 } ∧
  s.err = { code := 0, sub := 0, info0 := 0, info1 := 0 } ∧ s.res = 0

/-- A flag as a number. -/
def bit (b : Bool) : Nat := if b then 1 else 0

/-- `PTS_SHAPE` as a number (10_state.md R23). -/
def shapeCode : Pts → Nat
  | .none => 0
  | .single _ => 1
  | .dual _ => 2

/-- `len(S.PTS)` (10_state.md R23, R31). -/
def resultLength : Pts → Nat
  | .none => 0
  | .single points => points.length
  | .dual pairs => pairs.length

/-- `CTRL.POLICY` as a number (10_state.md R23). -/
def policyCode : Policy → Nat
  | .last => 0
  | .strongest => 1
  | .dual => 2
  | .runtime => 3

/-- The registers 0x00 to 0x11 in order, as numbers (10_state.md R23). -/
def registerFile (s : State) : List Nat :=
  [policyCode s.policy + 4 * bit s.dualsel,
   s.retmode.toNat,
   bit s.pktOk + 2 * bit s.calOk + 4 * shapeCode s.pts + 16 * bit s.asm.frameValid + 32 * bit s.asm.fatal
     + 64 * bit s.asm.prevValid,
   s.err.code.toNat + 256 * s.err.sub.toNat,
   s.err.info0.toNat,
   s.err.info1.toNat,
   s.res.toNat % 2 ^ 32,
   s.res.toNat / 2 ^ 32,
   resultLength s.pts,
   bit s.asm.frameValid * s.asm.frame.height.toNat,
   bit s.asm.frameValid * s.asm.frame.width.toNat,
   bit s.asm.frameValid * s.asm.frame.points.length,
   (s.cfg.beamCount * s.asm.rev.length + s.asm.colbuf.length + s.asm.inq.length) % 2 ^ 32,
   s.asm.colcnt.toNat,
   s.asm.beamNum.toNat,
   s.asm.prevAz.toNat,
   s.asm.prevCh.toNat,
   bit s.calOk * s.cal.num.toNat]

/-- SINQ (42_converter.md R176): the configured value at the angle reduced to one revolution. -/
def sine (cfg : Cfg) (a : Int) : Int := (cfg.sinTab[(a % (cfg.T : Int)).toNat]?).getD 0

/-- COSQ (42_converter.md R176 (d)). -/
def cosine (cfg : Cfg) (a : Int) : Int := sine cfg (a + (cfg.T : Int) / 4)

/-- `p` is `Pt(c, k, tag)` of the packet and the table in `s` (42_converter.md R173 to R178), every field exact. -/
def IsPoint (s : State) (c k : Nat) (tag : Ret) (p : Point) : Prop :=
  ∃ l, s.cal.lasers[k]? = some l ∧
    let dq : Int := ((word4 s (pxStart s c k) % 2 ^ 20 : Nat) : Int) * s.cal.res.toInt
    let a : Int := ((word4 s (colStart s c + 12) : Nat) + l.azoff.toInt) % (s.cfg.T : Int)
    let se := sine s.cfg l.elev.toInt
    let ce := cosine s.cfg l.elev.toInt
    let plane := (dq * ce - l.voff.toInt * se) / 2 ^ 30
    p.x.toInt = (plane * sine s.cfg a - l.hoff.toInt * cosine s.cfg a) / 2 ^ 30 ∧
    p.y.toInt = (plane * cosine s.cfg a + l.hoff.toInt * sine s.cfg a) / 2 ^ 30 ∧
    p.z.toInt = (dq * se + l.voff.toInt * ce) / 2 ^ 30 ∧
    p.refl.toNat = word2 s (pxStart s c k + 4) ∧
    p.sig.toNat = word2 s (pxStart s c k + 6) ∧
    p.noise.toNat = word2 s (pxStart s c k + 8) ∧
    p.az.toNat = word4 s (colStart s c + 12) ∧
    p.ch.toNat = k ∧
    p.col = 0 ∧
    p.ts.toNat = word8 s (colStart s c) ∧
    (p.valid = true ↔ word4 s (colStart s c + 16 + 12 * s.cfg.N) = 0xFFFFFFFF) ∧
    p.ret = tag

/-- A conversion can run: a packet, a table of N entries, a well-formed configuration. -/
def Ready (s : State) : Prop :=
  s.cfg.Wf ∧ s.pktOk = true ∧ s.calOk = true ∧ s.cal.num.toNat = s.cfg.N ∧ s.cal.lasers.length = s.cfg.N

/-- Two packets that agree but for the padding bytes and the reserved bits of the distance words (20_memory.md R61,
30_encoding.md R94). -/
def SamePacket (cfg : Cfg) (m m' : Memory) : Prop :=
  let px := fun c k => c * (20 + 12 * cfg.N) + 16 + 12 * k
  (∀ a, (∀ c k, c < cfg.C → k < cfg.N → a ≠ px c k + 2 ∧ a ≠ px c k + 3 ∧ a ≠ px c k + 10 ∧ a ≠ px c k + 11) →
    Memory.readByte m a = Memory.readByte m' a) ∧
  (∀ c k, c < cfg.C → k < cfg.N →
    (Memory.readByte m (px c k + 2)).toNat % 16 = (Memory.readByte m' (px c k + 2)).toNat % 16)

/-- The operations that read the packet view as it stands (40_decoder.md, 42_converter.md); `PROC` loads it first. -/
def readsPacket : Instr → Bool
  | .pxDist _ _ | .pxRefl _ _ | .pxSig _ _ | .pxNoise _ _ => true
  | .colTs _ | .colMid _ | .colFid _ | .colEnc _ | .colValid _ | .colAzdeg _ | .colAzrad _ => true
  | .cvtLast | .cvtStrongest | .cvtDual | .cvtRuntime => true
  | _ => false

/-- The scalar-result operations (10_state.md R21). -/
def isScalar : Instr → Bool
  | .pxDist _ _ | .pxRefl _ _ | .pxSig _ _ | .pxNoise _ _ => true
  | .colTs _ | .colMid _ | .colFid _ | .colEnc _ | .colValid _ | .colAzdeg _ | .colAzrad _ => true
  | .calGet _ _ | .calRes | .calNum | .csrRd _ => true
  | _ => false

/-- The conversion of a policy (43_assembler.md R230). -/
def conversionOf : Policy → Instr
  | .last => .cvtLast
  | .strongest => .cvtStrongest
  | .dual => .cvtDual
  | .runtime => .cvtRuntime

/-- `s` with `batch` as the points the host presents. -/
def presenting (s : State) (batch : List Point) : State :=
  { s with payload := { s.payload with pts := batch } }

/-- A point as it came, before the assembler gave it a column. -/
def unassigned (p : Point) : Point := { p with col := 0 }

/-- The leftover points in stream order (10_state.md R39). -/
def leftover (a : Asm) : List Point := a.rev.flatten ++ a.colbuf ++ a.inq

/-- A point with its validity flag cleared. -/
def unmarked (p : Point) : Point := { p with valid := false }

/-- The frame of an output with every validity flag cleared. -/
def unmarkedFrame (f : Frame) : Frame := { f with points := f.points.map unmarked }

/-- A converter result with every validity flag cleared. -/
def unmarkedPts : Pts → Pts
  | .none => .none
  | .single points => .single (points.map unmarked)
  | .dual pairs => .dual (pairs.map fun q => (unmarked q.1, unmarked q.2))

/-- An output with every validity flag cleared. -/
def unmarkedOutput : Output → Output
  | .none => .none
  | .scalar v => .scalar v
  | .points p => .points (unmarkedPts p)
  | .frame f => .frame (f.map unmarkedFrame)

/-- The state with the validity flag of every point that a push can see or has seen cleared. -/
def unmarkedState (s : State) : State :=
  { s with
    payload := { s.payload with pts := s.payload.pts.map unmarked }
    output := unmarkedOutput s.output
    pts := unmarkedPts s.pts
    asm := { s.asm with
      inq := s.asm.inq.map unmarked
      rev := s.asm.rev.map (fun column => column.map unmarked)
      colbuf := s.asm.colbuf.map unmarked
      frame := unmarkedFrame s.asm.frame } }

end Sys2Proof.Claims

open Sys2Proof Sys2Proof.Machine Sys2Proof.Claims

/-! ### Encoding -/

/-- Decode and encode agree on every operation whose operands fit their fields (30_encoding.md R100, R101). -/
def Obligations.DecodeOfEncodeIsTheInstruction : Prop :=
  ∀ i : Instr, i.wellFormed = true → decode (encode i) = .ok i

/-- Every word has one meaning: a word that decodes is the encoding of the well-formed operation it decodes to, so
no bit of it is ignored (30_encoding.md R100: a bit the format does not use must be 0). -/
def Obligations.DecodedWordIsItsEncoding : Prop :=
  ∀ (w : Word) (i : Instr), decode w = .ok i → i.wellFormed = true ∧ encode i = w

/-- The decoder accepts exactly the words that match a row of spec/opcode_table.json, and no word matches two
(30_encoding.md R101, R102). -/
def Obligations.DecodeAcceptsExactlyTheTable : Prop :=
  (∀ w : Word, (∃ i, decode w = .ok i) ↔ ∃ row ∈ opcodeTable, w &&& row.1 = row.2) ∧
  (∀ w : Word, ∀ row ∈ opcodeTable, ∀ row' ∈ opcodeTable,
    w &&& row.1 = row.2 → w &&& row'.1 = row'.2 → row = row')

/-- Words written out by 30_encoding.md R104 and 95_test_vectors.md decode to the operations they stand for. With the
words of the statements about single operations, every operation has its word in a statement. -/
def Obligations.SpecWordsDecode : Prop :=
  decode 0x00000000 = .ok .nop ∧ decode 0x0400C000 = .ok (.csrRd 0x0C) ∧ decode 0x05001039 = .ok (.csrWr 1 0x39) ∧
  decode 0x10000000 = .ok .pktLoad ∧ decode 0x11001001 = .ok (.pxDist 1 1) ∧ decode 0x1C001000 = .ok (.colValid 1) ∧
  decode 0x20000000 = .ok (.calBuiltin 0) ∧ decode 0x22003001 = .ok (.calGet .hoff 1) ∧
  decode 0x30000000 = .ok .cvtLast ∧ decode 0x31000000 = .ok .cvtStrongest ∧ decode 0x32000000 = .ok .cvtDual ∧
  decode 0x33000000 = .ok .cvtRuntime ∧ decode 0x40000000 = .ok (.asmPush .pts) ∧ decode 0x40000001 = .ok (.asmPush .host) ∧ decode 0x41000000 = .ok .proc ∧
  decode 0x03000000 = .reservedOpcode ∧ decode 0x22004000 = .mustBeZero ∧ decode 0x40000002 = .mustBeZero

/-! ### The step -/

/-- A step runs the decoded instruction: the host's next operation leaves the queue, its payload is presented, and
the step ends as `exec` ends there, the payload dropped at the end (10_state.md R20, R44). With no operation issued
the block waits. The queue and the payload are the model's own fields (log 5). -/
def Obligations.StepRunsTheDecodedInstruction : Prop :=
  (∀ (s : State) (cmd : Command) (rest : List Command) (i : Instr),
    s.cmds = cmd :: rest → decode cmd.word = .ok i → i.wellFormed = true →
    step s = match exec i { s with cmds := rest, payload := cmd.payload } with
      | .next t => .next { t with payload := Payload.empty }
      | .fault f => .fault f
      | .refused r => .refused r) ∧
  (∀ s : State, s.cmds = [] → step s = .next s)

/-- A word that is no operation completes with IllegalCommand, code 8 with the word, having changed nothing but the
completion registers (30_encoding.md R102, 60_exceptions.md R263); the command leaves the host's queue (log 5). -/
def Obligations.IllegalWordCompletesWithIllegalCommand : Prop :=
  ∀ (s : State) (cmd : Command) (rest : List Command),
    s.cmds = cmd :: rest → (∀ row ∈ opcodeTable, cmd.word &&& row.1 ≠ row.2) →
    step s = failsWith { s with cmds := rest, payload := Payload.empty } 8 0 0 cmd.word.toNat

/-! ### System operations -/

/-- 44_system.md R240: `NOP` changes no state except the completion registers, which are written 0. -/
def Obligations.NopWritesOnlyTheCompletion : Prop :=
  decode 0x00000000 = .ok .nop ∧ ∀ s : State, exec .nop s = completesOk s .none

/-- 44_system.md R241: `SYS.RESET` writes every piece of state to its reset value, exactly as power-on reset does, and
completes OK. That it keeps the configuration is 10_state.md R44. That it keeps the host's pending operations and the
payload in progress is the model's choice, no rule of the spec (logs 5 and 6). -/
def Obligations.SysResetWritesEveryResetValue : Prop :=
  decode 0x01000000 = .ok .sysReset ∧
  ∀ s : State, ∃ t, exec .sysReset s = .next t ∧ AtReset t ∧ t.output = .none ∧
    t.cfg = s.cfg ∧ t.cmds = s.cmds ∧ t.payload = s.payload

/-- 10_state.md R43: after power-on reset, in every configuration, every piece of state has the value of the table. -/
def Obligations.PowerOnResetValues : Prop :=
  AtReset State.reset ∧ ∀ cfg : Cfg, AtReset (State.resetOf cfg)

/-- 44_system.md R242: `ASM.RESET` writes the assembler's state to its reset values and leaves all else unchanged; it
and `SYS.RESET` are the only ways to leave the fatal condition. -/
def Obligations.AsmResetStartsANewStream : Prop :=
  decode 0x02000000 = .ok .asmReset ∧
  (∀ s : State, exec .asmReset s = completesOk
    { s with asm :=
      { inq := [], rev := [], colbuf := [], prevValid := false, prevAz := 0, prevCh := 0, colcnt := 0, beamNum := 0,
        fatal := false, fatalErr := { code := 0, sub := 0, info0 := 0, info1 := 0 }, frameValid := false,
        frame := { points := [], height := 0, width := 0 } } } .none) ∧
  (∀ (i : Instr) (s t : State), exec i s = .next t → s.asm.fatal = true → t.asm.fatal = false →
    i = .asmReset ∨ i = .sysReset)

/-- 44_system.md R243: `CSR.RD` gives the value the register held when the operation began, for each of the eighteen
registers of 10_state.md R23, and IndexOutOfRange for any other number. A count that a 32-bit register cannot hold
is left out: what is read there is the model's choice (log 12). -/
def Obligations.CsrReadGivesEveryRegister : Prop :=
  (∀ r, r < 4096 → decode (BitVec.ofNat 32 (0x04 * 2 ^ 24 + r * 2 ^ 12)) = .ok (.csrRd r)) ∧
  ∀ (s : State) (r : Nat),
    (0x11 < r → exec (.csrRd r) s = failsWith s 7 4 0x12 r) ∧
    (∀ value, (registerFile s)[r]? = some value → value < 2 ^ 32 → scalarResult (exec (.csrRd r) s) s value)

/-- 44_system.md R244: `CSR.WR` writes `CTRL` from `v[2:0]` and `RETMODE` from `v[7:0]`, ignores a write to a read-only
register, and raises IndexOutOfRange for an unassigned one. -/
def Obligations.CsrWriteReachesTwoRegisters : Prop :=
  (∀ (r : Nat) (v : BitVec 12), r < 4096 →
    decode (BitVec.ofNat 32 (0x05 * 2 ^ 24 + r * 2 ^ 12 + v.toNat)) = .ok (.csrWr r v)) ∧
  ∀ (s : State) (v : BitVec 12),
    (∀ p, policyCode p = v.toNat % 4 →
      exec (.csrWr 0 v) s =
        completesOk { s with policy := p, dualsel := decide (v.toNat / 4 % 2 = 1) } .none) ∧
    (exec (.csrWr 1 v) s = completesOk { s with retmode := BitVec.ofNat 8 (v.toNat % 256) } .none) ∧
    (∀ r, 2 ≤ r → r ≤ 0x11 → exec (.csrWr r v) s = completesOk s .none) ∧
    (∀ r, 0x11 < r → exec (.csrWr r v) s = failsWith s 7 4 0x12 r)

/-! ### Packet Layout Decoder -/

/-- 40_decoder.md R122: `PKT.LOAD` takes exactly PKT_LEN bytes, which then read back one by one; any other length
is MalformedPacket with expected and actual length, and leaves no packet view. -/
def Obligations.PktLoadTakesExactlyOnePacket : Prop :=
  decode 0x10000000 = .ok .pktLoad ∧
  ∀ s : State,
    (s.payload.rx.length = s.cfg.C * (20 + 12 * s.cfg.N) →
      ∃ m : Memory, exec .pktLoad s = completesOk { s with pkt := m, pktOk := true } .none ∧ m.Wf ∧
        ∀ a (h : a < s.payload.rx.length), Memory.readByte m a = s.payload.rx[a]) ∧
    (s.payload.rx.length ≠ s.cfg.C * (20 + 12 * s.cfg.N) →
      exec .pktLoad s =
        failsWith { s with pktOk := false } 1 0 (s.cfg.C * (20 + 12 * s.cfg.N)) s.payload.rx.length)

/-- 40_decoder.md R123: `PX.DIST` gives the low 20 bits of the distance word. -/
def Obligations.PxDistGivesLowTwentyBits : Prop :=
  PixelReads 0x11 .pxDist (fun s c k => word4 s (pxStart s c k) % 2 ^ 20)

/-- 40_decoder.md R124 to R126: `PX.REFL`, `PX.SIG`, `PX.NOISE` give their two-byte fields. -/
def Obligations.PxIntensitiesGiveTheirFields : Prop :=
  PixelReads 0x12 .pxRefl (fun s c k => word2 s (pxStart s c k + 4)) ∧
  PixelReads 0x13 .pxSig (fun s c k => word2 s (pxStart s c k + 6)) ∧
  PixelReads 0x14 .pxNoise (fun s c k => word2 s (pxStart s c k + 8))

/-- 40_decoder.md R130 to R133: `COL.TS`, `COL.MID`, `COL.FID`, `COL.ENC` give their fields unchanged. -/
def Obligations.ColumnHeaderReads : Prop :=
  ColumnReads 0x18 .colTs (fun s c => word8 s (colStart s c)) ∧
  ColumnReads 0x19 .colMid (fun s c => word2 s (colStart s c + 8)) ∧
  ColumnReads 0x1A .colFid (fun s c => word2 s (colStart s c + 10)) ∧
  ColumnReads 0x1B .colEnc (fun s c => word4 s (colStart s c + 12))

/-- 40_decoder.md R134: `COL.VALID` compares the marker with the sentinel; any other marker gives 0, no error. -/
def Obligations.ColValidComparesTheMarker : Prop :=
  ColumnReads 0x1C .colValid
    (fun s c => if word4 s (colStart s c + 16 + 12 * s.cfg.N) = 0xFFFFFFFF then 1 else 0)

/-- 40_decoder.md R135: `COL.AZDEG` is `floor(t * 360 * 65536 / T)`; 0 at t = 0, 180 degrees at T/2, 360 or more from T
on, non-decreasing in t, and the product below 2^57. -/
def Obligations.ColAzdegIsFloorOfDegrees : Prop :=
  ColumnReads 0x1D .colAzdeg (fun s c => word4 s (colStart s c + 12) * 360 * 65536 / s.cfg.T) ∧
  (∀ (s : State) (c : Nat), s.pktOk = true → c < s.cfg.C → 0 < s.cfg.T → s.cfg.T % 4 = 0 →
    (word4 s (colStart s c + 12) = 0 → scalarResult (exec (.colAzdeg c) s) s 0) ∧
    (word4 s (colStart s c + 12) = s.cfg.T / 2 → scalarResult (exec (.colAzdeg c) s) s 11796480) ∧
    (s.cfg.T ≤ word4 s (colStart s c + 12) →
      ∃ v, 23592960 ≤ v ∧ scalarResult (exec (.colAzdeg c) s) s v)) ∧
  (∀ (s : State) (c c' : Nat), s.pktOk = true → c < s.cfg.C → c' < s.cfg.C →
    word4 s (colStart s c + 12) ≤ word4 s (colStart s c' + 12) →
    ∃ v v', v ≤ v' ∧ scalarResult (exec (.colAzdeg c) s) s v ∧ scalarResult (exec (.colAzdeg c') s) s v') ∧
  (∀ (s : State) (c : Nat), word4 s (colStart s c + 12) * 360 * 65536 < 2 ^ 57)

/-- 40_decoder.md R136: `COL.AZRAD` is `floor(t * 1686629713 / T)`, within `1 + t/(15 T)` units of 2^-28 of the real
angle, non-decreasing in t, and the product below 2^63. -/
def Obligations.ColAzradIsFloorOfRadians : Prop :=
  ColumnReads 0x1E .colAzrad (fun s c => word4 s (colStart s c + 12) * 1686629713 / s.cfg.T) ∧
  (∀ (s : State) (c : Nat), s.pktOk = true → c < s.cfg.C → 0 < s.cfg.T →
    (word4 s (colStart s c + 12) = 0 → scalarResult (exec (.colAzrad c) s) s 0) ∧
    (word4 s (colStart s c + 12) = s.cfg.T → scalarResult (exec (.colAzrad c) s) s 1686629713) ∧
    ∃ v, scalarResult (exec (.colAzrad c) s) s v ∧
      |(v : ℝ) - 2 * Real.pi * word4 s (colStart s c + 12) / s.cfg.T * 2 ^ 28|
        < 1 + (word4 s (colStart s c + 12) : ℝ) / (15 * s.cfg.T)) ∧
  (∀ (s : State) (c c' : Nat), s.pktOk = true → c < s.cfg.C → c' < s.cfg.C →
    word4 s (colStart s c + 12) ≤ word4 s (colStart s c' + 12) →
    ∃ v v', v ≤ v' ∧ scalarResult (exec (.colAzrad c) s) s v ∧ scalarResult (exec (.colAzrad c') s) s v') ∧
  (∀ (s : State) (c : Nat), word4 s (colStart s c + 12) * 1686629713 < 2 ^ 63)

/-- The reserved bits of the distance words and the padding bytes reach no result: an operation that reads the packet
does the same on two packets that differ only there, and so does `PROC`, which takes its packet from the host
(30_encoding.md R94, 20_memory.md R60, R65). -/
def Obligations.ReservedBitsAndPaddingAreIgnored : Prop :=
  (∀ (i : Instr) (s : State) (m : Memory), readsPacket i = true → SamePacket s.cfg s.pkt m →
    (∀ t, exec i s = .next t → exec i { s with pkt := m } = .next { t with pkt := m }) ∧
    (∀ r, exec i s = .refused r → exec i { s with pkt := m } = .refused r)) ∧
  (∀ (s : State) (rx : List Byte), s.asm.fatal = false →
    s.payload.rx.length = s.cfg.C * (20 + 12 * s.cfg.N) → rx.length = s.cfg.C * (20 + 12 * s.cfg.N) →
    SamePacket s.cfg (Memory.ofBytes s.payload.rx) (Memory.ofBytes rx) →
    let other := fun t : State => { t with payload := { t.payload with rx := rx } }
    (∀ t, exec .proc s = .next t → exec .proc (other s) = .next (other { t with pkt := Memory.ofBytes rx })) ∧
    (∀ r, exec .proc s = .refused r → exec .proc (other s) = .refused r))

/-! ### Calibration Model -/

/-- 41_calibration.md R152: `CAL.BUILTIN m` makes the model's compiled-in table active, or raises IndexOutOfRange. -/
def Obligations.CalBuiltinMakesTheModelActive : Prop :=
  (∀ m, m < 4096 → decode (BitVec.ofNat 32 (0x20 * 2 ^ 24 + m)) = .ok (.calBuiltin m)) ∧
  ∀ (s : State) (m : Nat),
    (s.cfg.builtin.length ≤ m → exec (.calBuiltin m) s = failsWith s 7 3 s.cfg.builtin.length m) ∧
    (∀ h : m < s.cfg.builtin.length,
      exec (.calBuiltin m) s = completesOk { s with cal := s.cfg.builtin[m], calOk := true } .none)

/-- 41_calibration.md R153: `CAL.EXT` makes its checks in order, the first that fails deciding the error, and
otherwise makes the table of its records active. -/
def Obligations.CalExtChecksThenLoads : Prop :=
  decode 0x21000000 = .ok .calExt ∧
  ∀ s : State,
    let tbl := s.payload.tbl
    let consecutive := fun n : Nat => ∀ j (h : j < tbl.records.length), j < n →
      tbl.records[j].index.toNat = s.cfg.calOrigin + j
    (tbl.distanceResolution.toInt ≤ 0 →
      exec .calExt s = failsWith s 2 1 0 tbl.distanceResolution.toNat) ∧
    (0 < tbl.distanceResolution.toInt → tbl.numLasers.toNat ≠ tbl.records.length →
      exec .calExt s = failsWith s 2 2 tbl.numLasers.toNat tbl.records.length) ∧
    (0 < tbl.distanceResolution.toInt → tbl.numLasers.toNat = tbl.records.length →
      (∀ i (h : i < tbl.records.length), consecutive i →
        tbl.records[i].index.toNat ≠ s.cfg.calOrigin + i →
        exec .calExt s = failsWith s 2 3 (s.cfg.calOrigin + i) tbl.records[i].index.toNat) ∧
      (consecutive tbl.records.length → s.cfg.calCap < tbl.records.length →
        exec .calExt s = failsWith s 9 3 s.cfg.calCap tbl.records.length) ∧
      (consecutive tbl.records.length → tbl.records.length ≤ s.cfg.calCap → s.cfg.calCap ≤ 4096 →
        ∃ t : CalTable, exec .calExt s = completesOk { s with cal := t, calOk := true } .none ∧
          t.num.toNat = tbl.records.length ∧ t.res = tbl.distanceResolution ∧
          t.lasers.length = tbl.records.length ∧
          ∀ j (h : j < tbl.records.length), t.lasers[j]? = some
            { elev := tbl.records[j].elev, azoff := tbl.records[j].azoff, voff := tbl.records[j].voff,
              hoff := tbl.records[j].hoff }))

/-- 41_calibration.md R155 and 10_state.md R29: a load that raises leaves the table and `CAL_OK` exactly as they were,
and no operation but a load or the system reset changes them. -/
def Obligations.TableIsReplacedWholeOrKept : Prop :=
  ∀ (i : Instr) (s t : State), exec i s = .next t →
    ((∃ m, i = .calBuiltin m) ∨ i = .calExt → t.err.code ≠ 0 → t.cal = s.cal ∧ t.calOk = s.calOk) ∧
    ((∀ m, i ≠ .calBuiltin m) → i ≠ .calExt → i ≠ .sysReset → t.cal = s.cal ∧ t.calOk = s.calOk)

/-- 41_calibration.md R157 to R159: the accessors give the entry's field sign-extended, the resolution and the channel
count; NotReady without a table, IndexOutOfRange past it. In every state with the block's invariants a readable
resolution is positive and the count is that of the entries. -/
def Obligations.CalAccessorsReadTheTable : Prop :=
  (∀ k, k < 4096 →
    decode (BitVec.ofNat 32 (0x22 * 2 ^ 24 + k)) = .ok (.calGet .elev k) ∧
    decode (BitVec.ofNat 32 (0x22 * 2 ^ 24 + 1 * 2 ^ 12 + k)) = .ok (.calGet .azoff k) ∧
    decode (BitVec.ofNat 32 (0x22 * 2 ^ 24 + 2 * 2 ^ 12 + k)) = .ok (.calGet .voff k) ∧
    decode (BitVec.ofNat 32 (0x22 * 2 ^ 24 + 3 * 2 ^ 12 + k)) = .ok (.calGet .hoff k)) ∧
  decode 0x23000000 = .ok .calRes ∧ decode 0x24000000 = .ok .calNum ∧
  ∀ (s : State) (k : Nat),
    (s.calOk = false →
      (∀ f, exec (.calGet f k) s = failsWith s 6 2 0 0) ∧ exec .calRes s = failsWith s 6 2 0 0 ∧
      exec .calNum s = failsWith s 6 2 0 0) ∧
    (s.calOk = true → s.cal.num.toNat ≤ k → ∀ f, exec (.calGet f k) s = failsWith s 7 2 s.cal.num.toNat k) ∧
    (s.calOk = true → k < s.cal.num.toNat → ∀ l, s.cal.lasers[k]? = some l →
      ∃ e a v h : BitVec 64,
        e.toInt = l.elev.toInt ∧ exec (.calGet .elev k) s = completesOk { s with res := e } (.scalar e) ∧
        a.toInt = l.azoff.toInt ∧ exec (.calGet .azoff k) s = completesOk { s with res := a } (.scalar a) ∧
        v.toInt = l.voff.toInt ∧ exec (.calGet .voff k) s = completesOk { s with res := v } (.scalar v) ∧
        h.toInt = l.hoff.toInt ∧ exec (.calGet .hoff k) s = completesOk { s with res := h } (.scalar h)) ∧
    (s.calOk = true →
      (∃ v : BitVec 64, v.toInt = s.cal.res.toInt ∧ exec .calRes s = completesOk { s with res := v } (.scalar v)) ∧
      scalarResult (exec .calNum s) s s.cal.num.toNat) ∧
    (s.Inv → s.calOk = true → 0 < s.cal.res.toInt ∧ s.cal.num.toNat = s.cal.lasers.length)

/-! ### Point Converter -/

/-- 42_converter.md R171: the checks of every `CVT.*` in their order; each raise leaves no points. The dual shape
with C odd is refused (R181, 93_implementation_defined.md U6). -/
def Obligations.ConversionChecksInOrder : Prop :=
  ∀ (s : State) (i : Instr), i ∈ [Instr.cvtLast, .cvtStrongest, .cvtDual, .cvtRuntime] →
    let known := s.retmode = 0x37 ∨ s.retmode = 0x38 ∨ s.retmode = 0x39
    (s.pktOk = false → exec i s = failsWith { s with pts := .none } 6 1 0 0) ∧
    (s.pktOk = true → s.calOk = false → exec i s = failsWith { s with pts := .none } 6 2 0 0) ∧
    (s.pktOk = true → s.calOk = true → i = .cvtRuntime → ¬known →
      exec i s = failsWith { s with pts := .none } 3 0 0 s.retmode.toNat) ∧
    (s.pktOk = true → s.calOk = true → (i = .cvtRuntime → known) → s.cal.num.toNat ≠ s.cfg.N →
      exec i s = failsWith { s with pts := .none } 5 0 s.cfg.N s.cal.num.toNat) ∧
    (s.pktOk = true → s.calOk = true → s.cal.num.toNat = s.cfg.N → s.cfg.C % 2 = 1 →
      (i = .cvtDual ∨ (i = .cvtRuntime ∧ s.retmode = 0x39)) → exec i s = .refused .dualShapeOddColumns)

/-- 42_converter.md R179, R182, R183 with R173 to R178: `CVT.LAST` and `CVT.STRONGEST` give C*N points, columns outer,
channels inner, every field as the datapath says, and touch nothing else. -/
def Obligations.SingleConversionGivesEveryPoint : Prop :=
  ∀ s : State, Ready s →
    ∃ last strongest : List Point,
      exec .cvtLast s = completesOk { s with pts := .single last } (.points (.single last)) ∧
      exec .cvtStrongest s = completesOk { s with pts := .single strongest } (.points (.single strongest)) ∧
      last.length = s.cfg.C * s.cfg.N ∧ strongest.length = s.cfg.C * s.cfg.N ∧
      ∀ c k, c < s.cfg.C → k < s.cfg.N →
        (∃ p, last[c * s.cfg.N + k]? = some p ∧ IsPoint s c k .last p) ∧
        (∃ p, strongest[c * s.cfg.N + k]? = some p ∧ IsPoint s c k .strongest p)

/-- 42_converter.md R181, R184: `CVT.DUAL` gives (C/2)*N pairs, the even column the last return and the odd column the
strongest, each with its own column's fields, and touches nothing else; with C odd it is refused. -/
def Obligations.DualConversionPairsColumns : Prop :=
  ∀ s : State, Ready s →
    (s.cfg.C % 2 = 1 → exec .cvtDual s = .refused .dualShapeOddColumns) ∧
    (s.cfg.C % 2 = 0 → ∃ pairs : List (Point × Point),
      exec .cvtDual s = completesOk { s with pts := .dual pairs } (.points (.dual pairs)) ∧
      pairs.length = s.cfg.C / 2 * s.cfg.N ∧
      ∀ j k, j < s.cfg.C / 2 → k < s.cfg.N →
        ∃ p q, pairs[j * s.cfg.N + k]? = some (p, q) ∧ IsPoint s (2 * j) k .last p ∧
          IsPoint s (2 * j + 1) k .strongest q)

/-- 42_converter.md R185: `CVT.RUNTIME` does what `CVT.STRONGEST`, `CVT.LAST` or `CVT.DUAL` does, as the return-mode byte
is 0x37, 0x38 or 0x39, and so completes with a tagged result wherever that one does; any other byte is
UnknownReturnMode, before the channel counts are compared. -/
def Obligations.RuntimePolicyFollowsTheReturnMode : Prop :=
  decode 0x33000000 = .ok .cvtRuntime ∧
  ∀ s : State,
    (s.retmode = 0x37 → exec .cvtRuntime s = exec .cvtStrongest s) ∧
    (s.retmode = 0x38 → exec .cvtRuntime s = exec .cvtLast s) ∧
    (s.retmode = 0x39 → exec .cvtRuntime s = exec .cvtDual s) ∧
    (s.pktOk = true → s.calOk = true → s.cal.num.toNat = s.cfg.N →
      s.retmode = 0x37 ∨ s.retmode = 0x38 ∨ (s.retmode = 0x39 ∧ s.cfg.C % 2 = 0) →
      ∃ p : Pts, p ≠ .none ∧ exec .cvtRuntime s = completesOk { s with pts := p } (.points p)) ∧
    (s.retmode ≠ 0x37 → s.retmode ≠ 0x38 → s.retmode ≠ 0x39 →
      (s.pktOk = false → exec .cvtRuntime s = failsWith { s with pts := .none } 6 1 0 0) ∧
      (s.pktOk = true → s.calOk = false → exec .cvtRuntime s = failsWith { s with pts := .none } 6 2 0 0) ∧
      (s.pktOk = true → s.calOk = true →
        exec .cvtRuntime s = failsWith { s with pts := .none } 3 0 0 s.retmode.toNat))

/-- 42_converter.md R186: the bounds of the datapath in every well-formed configuration (the widest intermediate fits
84 bits signed), so that the narrowing of x, y and z to 64 bits never changes a value; and asr30 floors. -/
def Obligations.DatapathNeverOverflows : Prop :=
  (∀ (cfg : Cfg) (raw : Nat) (res elev voff hoff : BitVec 32) (a : Int), cfg.Wf → raw < 2 ^ 20 → 0 < res.toInt →
    let dq : Int := raw * res.toInt
    let sum := dq * cosq cfg elev.toInt - voff.toInt * sinq cfg elev.toInt
    let plane := asr30 sum
    let p := project cfg dq elev.toInt a voff.toInt hoff.toInt
    (0 ≤ dq ∧ dq ≤ (2 ^ 20 - 1) * (2 ^ 31 - 1) ∧ dq < 2 ^ 51) ∧ |voff.toInt| ≤ 2 ^ 31 ∧ |hoff.toInt| ≤ 2 ^ 31 ∧
    |sinq cfg elev.toInt| ≤ 2 ^ 30 ∧ |cosq cfg elev.toInt| ≤ 2 ^ 30 ∧ |sinq cfg a| ≤ 2 ^ 30 ∧ |cosq cfg a| ≤ 2 ^ 30 ∧
    |sum| < 2 ^ 81 + 2 ^ 61 ∧ |plane| < 2 ^ 51 + 2 ^ 31 + 1 ∧
    |plane * sinq cfg a - hoff.toInt * cosq cfg a| < 2 ^ 83 ∧
    |plane * cosq cfg a + hoff.toInt * sinq cfg a| < 2 ^ 83 ∧
    |dq * sinq cfg elev.toInt + voff.toInt * cosq cfg elev.toInt| < 2 ^ 83 ∧
    |p.x| < 2 ^ 52 + 2 ^ 31 + 2 ∧ |p.y| < 2 ^ 52 + 2 ^ 31 + 2 ∧ |p.z| < 2 ^ 52 ∧
    (BitVec.ofInt 64 p.x).toInt = p.x ∧ (BitVec.ofInt 64 p.y).toInt = p.y ∧ (BitVec.ofInt 64 p.z).toInt = p.z) ∧
  asr30 (-1) = -1 ∧ asr30 (-(2 ^ 30)) = -1 ∧ asr30 (-(2 ^ 30) - 1) = -2

/-! ### Frame Assembler -/

/-- 43_assembler.md R204, R208, R209: a point that closes no column joins the column buffer with the running column
counter; if the azimuth also drops and completed columns exist, they become the frame first and the counter
restarts at 0. There is one point, waiting in the queue or presented by the host. A frame's width is the number of
its columns modulo 2^32, the model's choice for counts past it (log 12). -/
def Obligations.PointWithinAColumn : Prop :=
  ∀ (s : State) (p : Point), s.asm.Inv s.cfg → s.asm.fatal = false → s.asm.inq ++ s.payload.pts = [p] →
    WithinCap s.cfg.inqCap 1 → (s.asm.prevValid = true → s.asm.prevCh.toNat ≤ p.ch.toNat) →
    let drop := s.asm.prevValid = true ∧ p.az.toNat < s.asm.prevAz.toNat
    let frame : Frame :=
      { points := s.asm.rev.flatten, height := s.asm.beamNum, width := BitVec.ofNat 32 s.asm.rev.length }
    (¬(drop ∧ s.asm.rev ≠ []) →
      exec (.asmPush .host) s = completesOk
        { s with asm := { s.asm with
          inq := []
          colbuf := s.asm.colbuf ++ [{ p with col := s.asm.colcnt }]
          prevValid := true, prevAz := p.az, prevCh := p.ch
          frameValid := false, frame := { points := [], height := 0, width := 0 } } } (.frame none)) ∧
    (drop → s.asm.rev ≠ [] →
      exec (.asmPush .host) s = completesOk
        { s with asm := { s.asm with
          inq := [], rev := [], colcnt := 0
          colbuf := s.asm.colbuf ++ [{ p with col := 0 }]
          prevValid := true, prevAz := p.az, prevCh := p.ch
          frameValid := true, frame := frame } } (.frame (some frame)))

/-- 43_assembler.md R205 to R209: a point that closes a full column flushes it, with the detected beam count; if the
azimuth also drops, the flushed column is the last of the emitted frame. There is one point, waiting in the queue or
presented by the host. A frame's width is the number of its columns modulo 2^32, the model's choice for counts past
it (log 12). -/
def Obligations.PointThatClosesAColumn : Prop :=
  ∀ (s : State) (p : Point), s.asm.Inv s.cfg → s.asm.fatal = false → s.asm.inq ++ s.payload.pts = [p] →
    WithinCap s.cfg.inqCap 1 → s.asm.prevValid = true → p.ch.toNat < s.asm.prevCh.toNat →
    s.asm.colbuf.length = s.cfg.beamCount → s.cfg.revCap ≠ some s.asm.rev.length →
    let frame : Frame :=
      { points := s.asm.rev.flatten ++ s.asm.colbuf, height := s.asm.prevCh + 1
        width := BitVec.ofNat 32 (s.asm.rev.length + 1) }
    (s.asm.prevAz.toNat ≤ p.az.toNat →
      exec (.asmPush .host) s = completesOk
        { s with asm := { s.asm with
          inq := []
          rev := s.asm.rev ++ [s.asm.colbuf], beamNum := s.asm.prevCh + 1, colcnt := s.asm.colcnt + 1
          colbuf := [{ p with col := s.asm.colcnt + 1 }]
          prevAz := p.az, prevCh := p.ch
          frameValid := false, frame := { points := [], height := 0, width := 0 } } } (.frame none)) ∧
    (p.az.toNat < s.asm.prevAz.toNat →
      exec (.asmPush .host) s = completesOk
        { s with asm := { s.asm with
          inq := [], rev := [], beamNum := s.asm.prevCh + 1, colcnt := 0
          colbuf := [{ p with col := 0 }]
          prevAz := p.az, prevCh := p.ch
          frameValid := true, frame := frame } } (.frame (some frame)))

/-- 43_assembler.md R205, R206, R224: a column boundary on a column that is not of BEAM_COUNT points, or into a full
revolution buffer, is fatal; the point stays queued, the error is latched, and the buffers keep their values. There is
one point, waiting in the queue or presented by the host. -/
def Obligations.BadColumnIsFatal : Prop :=
  ∀ (s : State) (p : Point), s.asm.fatal = false → s.asm.inq ++ s.payload.pts = [p] →
    WithinCap s.cfg.inqCap 1 → s.asm.prevValid = true → p.ch.toNat < s.asm.prevCh.toNat →
    let stopped := fun e : ErrRec =>
      { s with asm := { s.asm with
        inq := [p], fatal := true, fatalErr := e
        frameValid := false, frame := { points := [], height := 0, width := 0 } } }
    let word := fun n : Nat => BitVec.ofNat 32 n
    (s.asm.colbuf.length ≠ s.cfg.beamCount →
      exec (.asmPush .host) s =
        failsWith (stopped { code := 4, sub := 1, info0 := word s.cfg.beamCount, info1 := word s.asm.colbuf.length })
          4 1 s.cfg.beamCount s.asm.colbuf.length) ∧
    (s.asm.colbuf.length = s.cfg.beamCount → ∀ cap, s.cfg.revCap = some cap → s.asm.rev.length = cap →
      exec (.asmPush .host) s =
        failsWith (stopped { code := 9, sub := 2, info0 := word cap, info1 := word cap }) 9 2 cap cap)

/-- 10_state.md R38: while FATAL is set every `ASM.PUSH` and `PROC` completes with the latched error and changes no
other state; only `ASM.RESET` and `SYS.RESET` clear it; what is latched is the error of the operation that set it. -/
def Obligations.FatalIsAbsorbing : Prop :=
  (∀ (i : Instr) (s : State), s.asm.fatal = true → (∃ src, i = .asmPush src) ∨ i = .proc →
    exec i s = .next { s with err := s.asm.fatalErr, output := .none }) ∧
  (∀ (i : Instr) (s t : State), exec i s = .next t → s.asm.fatal = true → i ≠ .asmReset → i ≠ .sysReset →
    t.asm = s.asm) ∧
  (∀ (i : Instr) (s t : State), exec i s = .next t → s.asm.fatal = false → t.asm.fatal = true →
    t.asm.fatalErr = t.err)

/-- 43_assembler.md R218, 60_exceptions.md R270: a push without a converter result, or past the capacity of the
pending-input queue, completes with its error and changes nothing. -/
def Obligations.PushTurnedAwayChangesNothing : Prop :=
  ∀ s : State, s.asm.fatal = false →
    (s.pts = .none → exec (.asmPush .pts) s = failsWith s 6 3 0 0) ∧
    (∀ cap, s.cfg.inqCap = some cap →
      (cap < s.asm.inq.length + s.payload.pts.length →
        exec (.asmPush .host) s = failsWith s 9 1 cap (s.asm.inq.length + s.payload.pts.length)) ∧
      (∀ points, s.pts = .single points → cap < s.asm.inq.length + points.length →
        exec (.asmPush .pts) s = failsWith s 9 1 cap (s.asm.inq.length + points.length)) ∧
      (∀ pairs, s.pts = .dual pairs → cap < s.asm.inq.length + pairs.length →
        exec (.asmPush .pts) s = failsWith s 9 1 cap (s.asm.inq.length + pairs.length)))

/-- 43_assembler.md R219, R218: `ASM.PUSH PTS` does what a host push of the fed points does, and consumes the result:
the points themselves, or the member of each pair that DUALSEL selects. -/
def Obligations.PushOfTheConverterResult : Prop :=
  ∀ (s : State) (batch : List Point), s.asm.fatal = false →
    WithinCap s.cfg.inqCap (s.asm.inq.length + batch.length) →
    s.pts = .single batch ∨
      (∃ pairs, s.pts = .dual pairs ∧ s.dualsel = false ∧ batch = pairs.map Prod.fst) ∨
      (∃ pairs, s.pts = .dual pairs ∧ s.dualsel = true ∧ batch = pairs.map Prod.snd) →
    ∃ t, exec (.asmPush .host) (presenting { s with pts := .none } batch) = .next t ∧
      exec (.asmPush .pts) s = .next { t with payload := s.payload }

/-- 43_assembler.md R221, R222: a push that completes either empties the queue and has no frame, or has exactly one,
which is its output. -/
def Obligations.OneFrameOrAnEmptyQueue : Prop :=
  ∀ (src : PushSource) (s t : State), s.asm.Inv s.cfg → exec (.asmPush src) s = .next t → t.err.code = 0 →
    (t.output = .frame none ∧ t.asm.frameValid = false ∧ t.asm.inq = []) ∨
    (t.output = .frame (some t.asm.frame) ∧ t.asm.frameValid = true)

/-- 43_assembler.md R221: the assembler's result does not depend on how a stream is split into calls. If a first call
completes with no frame, a second call ends exactly where one call with both batches ends; if the first emitted a
frame, one call with both emits the same frame and only queues the second batch behind the first's rest. Points that
wait in the queue are taken as if they headed the batch, also by the drain with an empty batch
(70_reset_and_hazards.md R310). -/
def Obligations.SplittingABatchChangesNothing : Prop :=
  (∀ (s t : State) (first second : List Point), s.asm.fatal = false →
    WithinCap s.cfg.inqCap (s.asm.inq.length + first.length + second.length) →
    exec (.asmPush .host) (presenting s first) = .next t → t.err.code = 0 →
    (t.output = .frame none →
      ∃ u, exec (.asmPush .host) (presenting s (first ++ second)) = .next u ∧
        exec (.asmPush .host) (presenting t second) = .next (presenting u second)) ∧
    (∀ f, t.output = .frame (some f) →
      exec (.asmPush .host) (presenting s (first ++ second)) =
        .next { presenting t (first ++ second) with asm := { t.asm with inq := t.asm.inq ++ second } })) ∧
  (∀ (s t : State) (waiting batch : List Point), s.asm.fatal = false →
    WithinCap s.cfg.inqCap (waiting.length + batch.length) →
    exec (.asmPush .host) (presenting { s with asm := { s.asm with inq := [] } } (waiting ++ batch)) = .next t →
    exec (.asmPush .host) (presenting { s with asm := { s.asm with inq := waiting } } batch) =
      .next (presenting t batch))

/-- 60_exceptions.md R272: no point is ever silently dropped. What an accepted push emits and keeps is, in stream
order and up to the assigned columns, what was kept before it and its batch; also when it ends in a fatal
error. -/
def Obligations.NoPointIsDropped : Prop :=
  ∀ s t : State, s.asm.Inv s.cfg → s.asm.fatal = false →
    WithinCap s.cfg.inqCap (s.asm.inq.length + s.payload.pts.length) →
    exec (.asmPush .host) s = .next t →
    ((if t.asm.frameValid then t.asm.frame.points else []) ++ leftover t.asm).map unassigned =
      (leftover s.asm ++ s.payload.pts).map unassigned

/-- 43_assembler.md R211: every emitted frame has BEAM_COUNT points for each of its columns, at least one column, and
rising channel indices within each run of BEAM_COUNT points; its width is the number of columns, modulo 2^32
(log 12). -/
def Obligations.EmittedFrameGeometry : Prop :=
  ∀ (src : PushSource) (s t : State) (f : Frame), s.Inv → exec (.asmPush src) s = .next t →
    t.output = .frame (some f) →
    ∃ columns : List (List Point), columns ≠ [] ∧ f.points = columns.flatten ∧
      f.width = BitVec.ofNat 32 columns.length ∧
      ∀ column ∈ columns, column.length = s.cfg.beamCount ∧ ChannelsRise column

/-- 00_scope.md R10 and 43_assembler.md R210: the frame's sort orders a column by ascending channel, keeps the input
order of equal channels, and is the identity on a column whose channels already rise. -/
def Obligations.ColumnSortIsStable : Prop :=
  ∀ column : List Point,
    ChannelsRise (sortByChannel column) ∧
    (∀ ch : BitVec 16,
      (sortByChannel column).filter (fun p => p.ch == ch) = column.filter (fun p => p.ch == ch)) ∧
    (ChannelsRise column → sortByChannel column = column)

/-- 43_assembler.md R223: validity is examined nowhere in the assembler. Clearing every validity flag before a push
gives what clearing them after it gives. -/
def Obligations.ValidityIsNotExamined : Prop :=
  ∀ (src : PushSource) (s t : State), exec (.asmPush src) s = .next t →
    exec (.asmPush src) (unmarkedState s) = .next (unmarkedState t)

/-- 43_assembler.md R230: `PROC` is the load, then the conversion of `CTRL.POLICY`, then the push of its result, stopping
at the first that raises, with the assembler untouched if that is one of the first two; while FATAL is set not
even the packet is loaded. -/
def Obligations.ProcIsTheThreeStages : Prop :=
  decode 0x41000000 = .ok .proc ∧
  ∀ s : State,
    (s.asm.fatal = true → exec .proc s = .next { s with err := s.asm.fatalErr, output := .none }) ∧
    (s.asm.fatal = false → ∀ loaded, exec .pktLoad s = .next loaded →
      (loaded.err.code ≠ 0 → exec .proc s = .next loaded ∧ loaded.asm = s.asm) ∧
      (loaded.err.code = 0 →
        (∀ r, exec (conversionOf s.policy) loaded = .refused r → exec .proc s = .refused r) ∧
        (∀ converted, exec (conversionOf s.policy) loaded = .next converted →
          (converted.err.code ≠ 0 → exec .proc s = .next converted ∧ converted.asm = s.asm) ∧
          (converted.err.code = 0 → exec .proc s = exec (.asmPush .pts) converted))))

/-- The whole pipeline on the first packet of a stream (43_assembler.md R230, R201 to R209): with N = BEAM_COUNT and
encoder counts that do not drop, `PROC` completes, leaving all columns but the last in the revolution buffer, the
last in the column buffer, every point with its column's number, and no frame. The points are those that the load
and the conversion, issued as operations, give. -/
def Obligations.FirstPacketFillsColumns : Prop :=
  ∀ s : State, s.cfg.Wf → s.cfg.N = s.cfg.beamCount → s.policy = .last → s.calOk = true →
    s.cal.num.toNat = s.cfg.N → s.payload.rx.length = s.cfg.C * (20 + 12 * s.cfg.N) →
    WithinCap (s.cfg.revCap.map (· + 1)) s.cfg.C →
    s.asm.fatal = false → s.asm.inq = [] → s.asm.rev = [] → s.asm.colbuf = [] → s.asm.prevValid = false →
    s.asm.colcnt = 0 →
    (∀ c, c + 1 < s.cfg.C →
      payloadWord4 s (colStart s c + 12) ≤ payloadWord4 s (colStart s (c + 1) + 12)) →
    ∃ (loaded converted : State) (points : List Point),
      exec .pktLoad s = .next loaded ∧ exec .cvtLast loaded = .next converted ∧
      converted.pts = .single points ∧ points.length = s.cfg.C * s.cfg.N ∧
      let column := fun c : Nat =>
        ((points.drop (c * s.cfg.N)).take s.cfg.N).map fun p => { p with col := BitVec.ofNat 32 c }
      exec .proc s = completesOk
        { converted with pts := .none, asm := { s.asm with
          rev := (List.range (s.cfg.C - 1)).map column
          colbuf := column (s.cfg.C - 1)
          prevValid := true
          prevAz := BitVec.ofNat 32 (payloadWord4 s (colStart s (s.cfg.C - 1) + 12))
          prevCh := BitVec.ofNat 16 (s.cfg.N - 1)
          colcnt := BitVec.ofNat 32 (s.cfg.C - 1)
          beamNum := if s.cfg.C = 1 then s.asm.beamNum else BitVec.ofNat 16 s.cfg.N
          frameValid := false
          frame := { points := [], height := 0, width := 0 } } } (.frame none)

/-! ### The whole machine -/

/-- The invariants of 10_state.md R41, with the capacities, the active table, the packet space and the fatal
condition, hold right after reset. The reset configuration is the model's choice (log 2). -/
def Obligations.InvariantHoldsAtReset : Prop :=
  State.reset.Inv ∧ ∀ cfg : Cfg, cfg.Wf → (State.resetOf cfg).Inv

/-- Every step keeps those invariants, from every state that has them. -/
def Obligations.EveryStepKeepsTheInvariant : Prop :=
  ∀ s t : State, s.Inv → step s = .next t → t.Inv

/-- 60_exceptions.md R262: every operation ends with a completion. The one exception is the dual shape asked of a
packet with C odd, which has no meaning (42_converter.md R181, log 9). -/
def Obligations.EveryOperationCompletes : Prop :=
  (∀ (i : Instr) (s : State), s.cfg.C % 2 = 0 → ∃ t, exec i s = .next t) ∧
  (∀ (i : Instr) (s : State), (∃ t, exec i s = .next t) ∨ exec i s = .refused .dualShapeOddColumns) ∧
  (∀ s : State, s.cfg.C % 2 = 0 → ∃ t, step s = .next t)

/-- 10_state.md R22: the completion registers are written by every operation: all four 0 on success, with a known
nonzero code and no output on failure. -/
def Obligations.CompletionRegistersAreWritten : Prop :=
  ∀ (i : Instr) (s t : State), s.Inv → exec i s = .next t →
    t.err = { code := 0, sub := 0, info0 := 0, info1 := 0 } ∨
    (1 ≤ t.err.code.toNat ∧ t.err.code.toNat ≤ 9 ∧ t.output = .none)

/-- 10_state.md R21: a scalar operation writes `RES` on success, which is its output, and leaves it unchanged on failure;
no other operation but `SYS.RESET` changes it. -/
def Obligations.OnlyScalarOperationsWriteRes : Prop :=
  ∀ (i : Instr) (s t : State), exec i s = .next t →
    (isScalar i = true → t.err.code = 0 → t.output = .scalar t.res) ∧
    (isScalar i = true → t.err.code ≠ 0 → t.res = s.res) ∧
    (isScalar i = false → i ≠ .sysReset → t.res = s.res)

/-- No operation but the two that feed the assembler and the two resets changes its state (42_converter.md R170,
60_exceptions.md R270). -/
def Obligations.AssemblerIsChangedByFourOperations : Prop :=
  ∀ (i : Instr) (s t : State), leavesAssembler i = true → exec i s = .next t → t.asm = s.asm

/-- 00_scope.md R10: no operation but `PKT.LOAD`, `PROC` and the system reset writes the packet: every byte reads as
before and the view stays as it was. -/
def Obligations.PacketIsWrittenByLoadsOnly : Prop :=
  ∀ (i : Instr) (s t : State), i ≠ .pktLoad → i ≠ .proc → i ≠ .sysReset → exec i s = .next t →
    t.pktOk = s.pktOk ∧ ∀ a, Memory.readByte t.pkt a = Memory.readByte s.pkt a

/-- Control registers are written by `CSR.WR` and the system reset only; the converter result by the converter, the
push of it, `PROC` and the system reset (10_state.md R23, R25); the configuration by no operation (R44). That no
operation changes the host's pending operations or the payload in progress is the model's choice (logs 5 and 6). -/
def Obligations.ControlAndResultFrames : Prop :=
  ∀ (i : Instr) (s t : State), exec i s = .next t →
    t.cfg = s.cfg ∧ t.cmds = s.cmds ∧ t.payload = s.payload ∧
    ((∀ r v, i ≠ .csrWr r v) → i ≠ .sysReset →
      t.policy = s.policy ∧ t.dualsel = s.dualsel ∧ t.retmode = s.retmode) ∧
    (i ∉ [Instr.cvtLast, .cvtStrongest, .cvtDual, .cvtRuntime, .asmPush .pts, .proc, .sysReset] → t.pts = s.pts)

/-! ### TRIG -/

/-- 42_converter.md R176 (a) to (e) hold of the sine and the cosine that the datapath uses, at every angle, in every
well-formed configuration; with the reference table of T = 3600 the sine is `floor(2^30 sin(2 pi (a mod T) / T) + 1/2)`. -/
def Obligations.TrigMeetsItsRule : Prop :=
  (∀ (cfg : Cfg) (a : Int), cfg.Wf →
    sinq cfg (a + (cfg.T : Int)) = sinq cfg a ∧
    -(2 ^ 30) ≤ sinq cfg a ∧ sinq cfg a ≤ 2 ^ 30 ∧
    cosq cfg a = sinq cfg (a + (cfg.T : Int) / 4) ∧
    |(sinq cfg a : ℝ) - 2 ^ 30 * Real.sin (2 * Real.pi * a / cfg.T)| ≤ 1) ∧
  (∀ cfg : Cfg, cfg.Wf →
    sinq cfg 0 = 0 ∧ sinq cfg ((cfg.T : Int) / 4) = 2 ^ 30 ∧ sinq cfg ((cfg.T : Int) / 2) = 0 ∧
    sinq cfg (3 * (cfg.T : Int) / 4) = -(2 ^ 30)) ∧
  Cfg.a16.T = 3600 ∧
  ∀ a : Int, sinq Cfg.a16 a = ⌊2 ^ 30 * Real.sin (2 * Real.pi * ((a % 3600 : Int) : ℝ) / 3600) + 1 / 2⌋
end

