-- ==== Sys2Proof/Laws/State.lean ====
section
/-!
SUPPORT. One lemma per field per update of the state and of the assembler, each true by unfolding the update.
-/

namespace Sys2Proof.Machine

open Sys2Proof

/-! ### Success -/

@[simp] theorem completed_cfg (s : State) (out : Output) : (s.completed out).cfg = s.cfg := rfl
@[simp] theorem completed_cmds (s : State) (out : Output) : (s.completed out).cmds = s.cmds := rfl
@[simp] theorem completed_payload (s : State) (out : Output) : (s.completed out).payload = s.payload := rfl
@[simp] theorem completed_output (s : State) (out : Output) : (s.completed out).output = out := rfl
@[simp] theorem completed_policy (s : State) (out : Output) : (s.completed out).policy = s.policy := rfl
@[simp] theorem completed_dualsel (s : State) (out : Output) : (s.completed out).dualsel = s.dualsel := rfl
@[simp] theorem completed_retmode (s : State) (out : Output) : (s.completed out).retmode = s.retmode := rfl
@[simp] theorem completed_pktOk (s : State) (out : Output) : (s.completed out).pktOk = s.pktOk := rfl
@[simp] theorem completed_pkt (s : State) (out : Output) : (s.completed out).pkt = s.pkt := rfl
@[simp] theorem completed_calOk (s : State) (out : Output) : (s.completed out).calOk = s.calOk := rfl
@[simp] theorem completed_cal (s : State) (out : Output) : (s.completed out).cal = s.cal := rfl
@[simp] theorem completed_pts (s : State) (out : Output) : (s.completed out).pts = s.pts := rfl
@[simp] theorem completed_asm (s : State) (out : Output) : (s.completed out).asm = s.asm := rfl
@[simp] theorem completed_err (s : State) (out : Output) : (s.completed out).err = ErrRec.ok := rfl
@[simp] theorem completed_res (s : State) (out : Output) : (s.completed out).res = s.res := rfl

/-! ### Error -/

@[simp] theorem raised_cfg (s : State) (e : ErrRec) : (s.raised e).cfg = s.cfg := rfl
@[simp] theorem raised_cmds (s : State) (e : ErrRec) : (s.raised e).cmds = s.cmds := rfl
@[simp] theorem raised_payload (s : State) (e : ErrRec) : (s.raised e).payload = s.payload := rfl
@[simp] theorem raised_output (s : State) (e : ErrRec) : (s.raised e).output = Output.none := rfl
@[simp] theorem raised_policy (s : State) (e : ErrRec) : (s.raised e).policy = s.policy := rfl
@[simp] theorem raised_dualsel (s : State) (e : ErrRec) : (s.raised e).dualsel = s.dualsel := rfl
@[simp] theorem raised_retmode (s : State) (e : ErrRec) : (s.raised e).retmode = s.retmode := rfl
@[simp] theorem raised_pktOk (s : State) (e : ErrRec) : (s.raised e).pktOk = s.pktOk := rfl
@[simp] theorem raised_pkt (s : State) (e : ErrRec) : (s.raised e).pkt = s.pkt := rfl
@[simp] theorem raised_calOk (s : State) (e : ErrRec) : (s.raised e).calOk = s.calOk := rfl
@[simp] theorem raised_cal (s : State) (e : ErrRec) : (s.raised e).cal = s.cal := rfl
@[simp] theorem raised_pts (s : State) (e : ErrRec) : (s.raised e).pts = s.pts := rfl
@[simp] theorem raised_asm (s : State) (e : ErrRec) : (s.raised e).asm = s.asm := rfl
@[simp] theorem raised_err (s : State) (e : ErrRec) : (s.raised e).err = e := rfl
@[simp] theorem raised_res (s : State) (e : ErrRec) : (s.raised e).res = s.res := rfl

/-! ### System reset -/

@[simp] theorem systemReset_cfg (s : State) : (s.systemReset).cfg = s.cfg := rfl
@[simp] theorem systemReset_cmds (s : State) : (s.systemReset).cmds = s.cmds := rfl
@[simp] theorem systemReset_payload (s : State) : (s.systemReset).payload = s.payload := rfl
@[simp] theorem systemReset_output (s : State) : (s.systemReset).output = (State.resetOf s.cfg).output := rfl
@[simp] theorem systemReset_policy (s : State) : (s.systemReset).policy = (State.resetOf s.cfg).policy := rfl
@[simp] theorem systemReset_dualsel (s : State) : (s.systemReset).dualsel = (State.resetOf s.cfg).dualsel := rfl
@[simp] theorem systemReset_retmode (s : State) : (s.systemReset).retmode = (State.resetOf s.cfg).retmode := rfl
@[simp] theorem systemReset_pktOk (s : State) : (s.systemReset).pktOk = (State.resetOf s.cfg).pktOk := rfl
@[simp] theorem systemReset_pkt (s : State) : (s.systemReset).pkt = (State.resetOf s.cfg).pkt := rfl
@[simp] theorem systemReset_calOk (s : State) : (s.systemReset).calOk = (State.resetOf s.cfg).calOk := rfl
@[simp] theorem systemReset_cal (s : State) : (s.systemReset).cal = (State.resetOf s.cfg).cal := rfl
@[simp] theorem systemReset_pts (s : State) : (s.systemReset).pts = (State.resetOf s.cfg).pts := rfl
@[simp] theorem systemReset_asm (s : State) : (s.systemReset).asm = (State.resetOf s.cfg).asm := rfl
@[simp] theorem systemReset_err (s : State) : (s.systemReset).err = (State.resetOf s.cfg).err := rfl
@[simp] theorem systemReset_res (s : State) : (s.systemReset).res = (State.resetOf s.cfg).res := rfl

/-! ### Assembler reset -/

@[simp] theorem assemblerReset_cfg (s : State) : (s.assemblerReset).cfg = s.cfg := rfl
@[simp] theorem assemblerReset_cmds (s : State) : (s.assemblerReset).cmds = s.cmds := rfl
@[simp] theorem assemblerReset_payload (s : State) : (s.assemblerReset).payload = s.payload := rfl
@[simp] theorem assemblerReset_output (s : State) : (s.assemblerReset).output = s.output := rfl
@[simp] theorem assemblerReset_policy (s : State) : (s.assemblerReset).policy = s.policy := rfl
@[simp] theorem assemblerReset_dualsel (s : State) : (s.assemblerReset).dualsel = s.dualsel := rfl
@[simp] theorem assemblerReset_retmode (s : State) : (s.assemblerReset).retmode = s.retmode := rfl
@[simp] theorem assemblerReset_pktOk (s : State) : (s.assemblerReset).pktOk = s.pktOk := rfl
@[simp] theorem assemblerReset_pkt (s : State) : (s.assemblerReset).pkt = s.pkt := rfl
@[simp] theorem assemblerReset_calOk (s : State) : (s.assemblerReset).calOk = s.calOk := rfl
@[simp] theorem assemblerReset_cal (s : State) : (s.assemblerReset).cal = s.cal := rfl
@[simp] theorem assemblerReset_pts (s : State) : (s.assemblerReset).pts = s.pts := rfl
@[simp] theorem assemblerReset_asm (s : State) : (s.assemblerReset).asm = Asm.reset := rfl
@[simp] theorem assemblerReset_err (s : State) : (s.assemblerReset).err = s.err := rfl
@[simp] theorem assemblerReset_res (s : State) : (s.assemblerReset).res = s.res := rfl

/-! ### Taking the host's next operation -/

@[simp] theorem accept_cfg (s : State) (cmd : Command) (rest : List Command) : (s.accept cmd rest).cfg = s.cfg := rfl
@[simp] theorem accept_cmds (s : State) (cmd : Command) (rest : List Command) : (s.accept cmd rest).cmds = rest := rfl
@[simp] theorem accept_payload (s : State) (cmd : Command) (rest : List Command) : (s.accept cmd rest).payload = cmd.payload := rfl
@[simp] theorem accept_output (s : State) (cmd : Command) (rest : List Command) : (s.accept cmd rest).output = s.output := rfl
@[simp] theorem accept_policy (s : State) (cmd : Command) (rest : List Command) : (s.accept cmd rest).policy = s.policy := rfl
@[simp] theorem accept_dualsel (s : State) (cmd : Command) (rest : List Command) : (s.accept cmd rest).dualsel = s.dualsel := rfl
@[simp] theorem accept_retmode (s : State) (cmd : Command) (rest : List Command) : (s.accept cmd rest).retmode = s.retmode := rfl
@[simp] theorem accept_pktOk (s : State) (cmd : Command) (rest : List Command) : (s.accept cmd rest).pktOk = s.pktOk := rfl
@[simp] theorem accept_pkt (s : State) (cmd : Command) (rest : List Command) : (s.accept cmd rest).pkt = s.pkt := rfl
@[simp] theorem accept_calOk (s : State) (cmd : Command) (rest : List Command) : (s.accept cmd rest).calOk = s.calOk := rfl
@[simp] theorem accept_cal (s : State) (cmd : Command) (rest : List Command) : (s.accept cmd rest).cal = s.cal := rfl
@[simp] theorem accept_pts (s : State) (cmd : Command) (rest : List Command) : (s.accept cmd rest).pts = s.pts := rfl
@[simp] theorem accept_asm (s : State) (cmd : Command) (rest : List Command) : (s.accept cmd rest).asm = s.asm := rfl
@[simp] theorem accept_err (s : State) (cmd : Command) (rest : List Command) : (s.accept cmd rest).err = s.err := rfl
@[simp] theorem accept_res (s : State) (cmd : Command) (rest : List Command) : (s.accept cmd rest).res = s.res := rfl

/-! ### Dropping the payload -/

@[simp] theorem dropPayload_cfg (s : State) : (s.dropPayload).cfg = s.cfg := rfl
@[simp] theorem dropPayload_cmds (s : State) : (s.dropPayload).cmds = s.cmds := rfl
@[simp] theorem dropPayload_payload (s : State) : (s.dropPayload).payload = Payload.empty := rfl
@[simp] theorem dropPayload_output (s : State) : (s.dropPayload).output = s.output := rfl
@[simp] theorem dropPayload_policy (s : State) : (s.dropPayload).policy = s.policy := rfl
@[simp] theorem dropPayload_dualsel (s : State) : (s.dropPayload).dualsel = s.dualsel := rfl
@[simp] theorem dropPayload_retmode (s : State) : (s.dropPayload).retmode = s.retmode := rfl
@[simp] theorem dropPayload_pktOk (s : State) : (s.dropPayload).pktOk = s.pktOk := rfl
@[simp] theorem dropPayload_pkt (s : State) : (s.dropPayload).pkt = s.pkt := rfl
@[simp] theorem dropPayload_calOk (s : State) : (s.dropPayload).calOk = s.calOk := rfl
@[simp] theorem dropPayload_cal (s : State) : (s.dropPayload).cal = s.cal := rfl
@[simp] theorem dropPayload_pts (s : State) : (s.dropPayload).pts = s.pts := rfl
@[simp] theorem dropPayload_asm (s : State) : (s.dropPayload).asm = s.asm := rfl
@[simp] theorem dropPayload_err (s : State) : (s.dropPayload).err = s.err := rfl
@[simp] theorem dropPayload_res (s : State) : (s.dropPayload).res = s.res := rfl

/-! ### Placing a command -/

@[simp] theorem withCommand_cfg (s : State) (w : Word) : (s.withCommand w).cfg = s.cfg := rfl
@[simp] theorem withCommand_cmds (s : State) (w : Word) : (s.withCommand w).cmds = { word := w, payload := Payload.empty } :: s.cmds := rfl
@[simp] theorem withCommand_payload (s : State) (w : Word) : (s.withCommand w).payload = s.payload := rfl
@[simp] theorem withCommand_output (s : State) (w : Word) : (s.withCommand w).output = s.output := rfl
@[simp] theorem withCommand_policy (s : State) (w : Word) : (s.withCommand w).policy = s.policy := rfl
@[simp] theorem withCommand_dualsel (s : State) (w : Word) : (s.withCommand w).dualsel = s.dualsel := rfl
@[simp] theorem withCommand_retmode (s : State) (w : Word) : (s.withCommand w).retmode = s.retmode := rfl
@[simp] theorem withCommand_pktOk (s : State) (w : Word) : (s.withCommand w).pktOk = s.pktOk := rfl
@[simp] theorem withCommand_pkt (s : State) (w : Word) : (s.withCommand w).pkt = s.pkt := rfl
@[simp] theorem withCommand_calOk (s : State) (w : Word) : (s.withCommand w).calOk = s.calOk := rfl
@[simp] theorem withCommand_cal (s : State) (w : Word) : (s.withCommand w).cal = s.cal := rfl
@[simp] theorem withCommand_pts (s : State) (w : Word) : (s.withCommand w).pts = s.pts := rfl
@[simp] theorem withCommand_asm (s : State) (w : Word) : (s.withCommand w).asm = s.asm := rfl
@[simp] theorem withCommand_err (s : State) (w : Word) : (s.withCommand w).err = s.err := rfl
@[simp] theorem withCommand_res (s : State) (w : Word) : (s.withCommand w).res = s.res := rfl

/-! ### Frame finalisation -/

@[simp] theorem finaliseFrame_inq (a : Asm) : (finaliseFrame a).inq = a.inq := rfl
@[simp] theorem finaliseFrame_rev (a : Asm) : (finaliseFrame a).rev = [] := rfl
@[simp] theorem finaliseFrame_colbuf (a : Asm) : (finaliseFrame a).colbuf = a.colbuf := rfl
@[simp] theorem finaliseFrame_prevValid (a : Asm) : (finaliseFrame a).prevValid = a.prevValid := rfl
@[simp] theorem finaliseFrame_prevAz (a : Asm) : (finaliseFrame a).prevAz = a.prevAz := rfl
@[simp] theorem finaliseFrame_prevCh (a : Asm) : (finaliseFrame a).prevCh = a.prevCh := rfl
@[simp] theorem finaliseFrame_colcnt (a : Asm) : (finaliseFrame a).colcnt = 0 := rfl
@[simp] theorem finaliseFrame_beamNum (a : Asm) : (finaliseFrame a).beamNum = a.beamNum := rfl
@[simp] theorem finaliseFrame_fatal (a : Asm) : (finaliseFrame a).fatal = a.fatal := rfl
@[simp] theorem finaliseFrame_fatalErr (a : Asm) : (finaliseFrame a).fatalErr = a.fatalErr := rfl
@[simp] theorem finaliseFrame_frameValid (a : Asm) : (finaliseFrame a).frameValid = true := rfl
@[simp] theorem finaliseFrame_frame (a : Asm) : (finaliseFrame a).frame = { points := a.rev.flatMap sortByChannel, height := a.beamNum, width := BitVec.ofNat 32 a.rev.length } := rfl

/-! ### Append -/

@[simp] theorem appendPoint_inq (a : Asm) (p : Point) : (appendPoint a p).inq = a.inq := rfl
@[simp] theorem appendPoint_rev (a : Asm) (p : Point) : (appendPoint a p).rev = a.rev := rfl
@[simp] theorem appendPoint_colbuf (a : Asm) (p : Point) : (appendPoint a p).colbuf = a.colbuf ++ [{ p with col := a.colcnt }] := rfl
@[simp] theorem appendPoint_prevValid (a : Asm) (p : Point) : (appendPoint a p).prevValid = true := rfl
@[simp] theorem appendPoint_prevAz (a : Asm) (p : Point) : (appendPoint a p).prevAz = p.az := rfl
@[simp] theorem appendPoint_prevCh (a : Asm) (p : Point) : (appendPoint a p).prevCh = p.ch := rfl
@[simp] theorem appendPoint_colcnt (a : Asm) (p : Point) : (appendPoint a p).colcnt = a.colcnt := rfl
@[simp] theorem appendPoint_beamNum (a : Asm) (p : Point) : (appendPoint a p).beamNum = a.beamNum := rfl
@[simp] theorem appendPoint_fatal (a : Asm) (p : Point) : (appendPoint a p).fatal = a.fatal := rfl
@[simp] theorem appendPoint_fatalErr (a : Asm) (p : Point) : (appendPoint a p).fatalErr = a.fatalErr := rfl
@[simp] theorem appendPoint_frameValid (a : Asm) (p : Point) : (appendPoint a p).frameValid = a.frameValid := rfl
@[simp] theorem appendPoint_frame (a : Asm) (p : Point) : (appendPoint a p).frame = a.frame := rfl

/-! ### Fatal latch -/

@[simp] theorem latchFatal_inq (a : Asm) (e : ErrRec) : (latchFatal a e).inq = a.inq := rfl
@[simp] theorem latchFatal_rev (a : Asm) (e : ErrRec) : (latchFatal a e).rev = a.rev := rfl
@[simp] theorem latchFatal_colbuf (a : Asm) (e : ErrRec) : (latchFatal a e).colbuf = a.colbuf := rfl
@[simp] theorem latchFatal_prevValid (a : Asm) (e : ErrRec) : (latchFatal a e).prevValid = a.prevValid := rfl
@[simp] theorem latchFatal_prevAz (a : Asm) (e : ErrRec) : (latchFatal a e).prevAz = a.prevAz := rfl
@[simp] theorem latchFatal_prevCh (a : Asm) (e : ErrRec) : (latchFatal a e).prevCh = a.prevCh := rfl
@[simp] theorem latchFatal_colcnt (a : Asm) (e : ErrRec) : (latchFatal a e).colcnt = a.colcnt := rfl
@[simp] theorem latchFatal_beamNum (a : Asm) (e : ErrRec) : (latchFatal a e).beamNum = a.beamNum := rfl
@[simp] theorem latchFatal_fatal (a : Asm) (e : ErrRec) : (latchFatal a e).fatal = true := rfl
@[simp] theorem latchFatal_fatalErr (a : Asm) (e : ErrRec) : (latchFatal a e).fatalErr = e := rfl
@[simp] theorem latchFatal_frameValid (a : Asm) (e : ErrRec) : (latchFatal a e).frameValid = a.frameValid := rfl
@[simp] theorem latchFatal_frame (a : Asm) (e : ErrRec) : (latchFatal a e).frame = a.frame := rfl

/-! ### Clearing the frame slot -/

@[simp] theorem clearFrame_inq (a : Asm) : (clearFrame a).inq = a.inq := rfl
@[simp] theorem clearFrame_rev (a : Asm) : (clearFrame a).rev = a.rev := rfl
@[simp] theorem clearFrame_colbuf (a : Asm) : (clearFrame a).colbuf = a.colbuf := rfl
@[simp] theorem clearFrame_prevValid (a : Asm) : (clearFrame a).prevValid = a.prevValid := rfl
@[simp] theorem clearFrame_prevAz (a : Asm) : (clearFrame a).prevAz = a.prevAz := rfl
@[simp] theorem clearFrame_prevCh (a : Asm) : (clearFrame a).prevCh = a.prevCh := rfl
@[simp] theorem clearFrame_colcnt (a : Asm) : (clearFrame a).colcnt = a.colcnt := rfl
@[simp] theorem clearFrame_beamNum (a : Asm) : (clearFrame a).beamNum = a.beamNum := rfl
@[simp] theorem clearFrame_fatal (a : Asm) : (clearFrame a).fatal = a.fatal := rfl
@[simp] theorem clearFrame_fatalErr (a : Asm) : (clearFrame a).fatalErr = a.fatalErr := rfl
@[simp] theorem clearFrame_frameValid (a : Asm) : (clearFrame a).frameValid = false := rfl
@[simp] theorem clearFrame_frame (a : Asm) : (clearFrame a).frame = Frame.empty := rfl

end Sys2Proof.Machine
end

