-- ==== Sys2Proof/Laws/Assembler.lean ====
section
/-!
SUPPORT. What the assembler can do: the flush, STEP, RUN, a batch, a push and the pipeline, each said once.
-/

namespace Sys2Proof.Machine

open Sys2Proof

/-- The flush raises one of its two errors, or moves the full column into the revolution buffer. -/
theorem flushColumn_cases (cfg : Cfg) (a : Asm) :
    (a.colbuf.length ≠ cfg.beamCount ∧
      flushColumn cfg a = .raise (mkErr .frameAssemblyError 1 cfg.beamCount a.colbuf.length)) ∨
    (a.colbuf.length = cfg.beamCount ∧ cfg.revCap = some a.rev.length ∧
      flushColumn cfg a = .raise (mkErr .bufferOverflow 2 a.rev.length a.rev.length)) ∨
    (a.colbuf.length = cfg.beamCount ∧ cfg.revCap ≠ some a.rev.length ∧
      flushColumn cfg a = .ok { a with
        beamNum := detectedBeams a.colbuf
        rev := a.rev ++ [a.colbuf]
        colbuf := []
        colcnt := a.colcnt + 1 }) := by
  unfold flushColumn
  by_cases hl : a.colbuf.length ≠ cfg.beamCount
  · exact .inl ⟨hl, if_pos hl⟩
  · rw [if_neg hl]
    have hl' : a.colbuf.length = cfg.beamCount := by omega
    by_cases hr : cfg.revCap = some a.rev.length
    · exact .inr (.inl ⟨hl', hr, if_pos hr⟩)
    · exact .inr (.inr ⟨hl', hr, if_neg hr⟩)

/-- STEP raises the flush's error at a column boundary, or appends to the assembler that the flush and the
finalisation leave (43_assembler.md R201). -/
theorem stepPoint_cases (cfg : Cfg) (a : Asm) (p : Point) :
    (∃ e, columnBoundary a p = true ∧ flushColumn cfg a = .raise e ∧ stepPoint cfg a p = .raise e) ∨
    (∃ flushed,
      ((columnBoundary a p = true ∧ flushColumn cfg a = .ok flushed) ∨
        (columnBoundary a p = false ∧ flushed = a)) ∧
      stepPoint cfg a p =
        .ok (appendPoint (finaliseIfBoundary (revolutionBoundary a p) flushed) p)) := by
  unfold stepPoint flushIfBoundary
  cases hb : columnBoundary a p with
  | false => exact .inr ⟨a, .inr ⟨rfl, rfl⟩, by simp⟩
  | true =>
    rw [if_pos rfl]
    cases hf : flushColumn cfg a with
    | raise e => exact .inl ⟨e, rfl, rfl, rfl⟩
    | ok flushed => exact .inr ⟨flushed, .inl ⟨rfl, rfl⟩, rfl⟩

/-- The finalisation leaves the assembler or folds its completed columns into the frame. -/
theorem finaliseIfBoundary_cases (boundary : Bool) (a : Asm) :
    (boundary = true ∧ a.rev ≠ [] ∧ finaliseIfBoundary boundary a = finaliseFrame a) ∨
    ((boundary = false ∨ a.rev = []) ∧ finaliseIfBoundary boundary a = a) := by
  unfold finaliseIfBoundary
  cases boundary <;> cases h : a.rev <;> simp

/-- STEP keeps what only RUN and the push write. -/
theorem stepPoint_keeps (cfg : Cfg) (a a' : Asm) (p : Point) (h : stepPoint cfg a p = .ok a') :
    a'.inq = a.inq ∧ a'.fatal = a.fatal ∧ a'.fatalErr = a.fatalErr := by
  rcases stepPoint_cases cfg a p with ⟨e, -, -, he⟩ | ⟨flushed, hfl, ho⟩
  · rw [he] at h
    cases h
  · rw [ho] at h
    obtain rfl := PointResult.ok.inj h
    have keep : flushed.inq = a.inq ∧ flushed.fatal = a.fatal ∧ flushed.fatalErr = a.fatalErr := by
      rcases hfl with ⟨-, hf⟩ | ⟨-, rfl⟩
      · rcases flushColumn_cases cfg a with ⟨-, h1⟩ | ⟨-, -, h1⟩ | ⟨-, -, h1⟩ <;> rw [h1] at hf
        · cases hf
        · cases hf
        · obtain rfl := PointResult.ok.inj hf
          exact ⟨rfl, rfl, rfl⟩
      · exact ⟨rfl, rfl, rfl⟩
    rcases finaliseIfBoundary_cases (revolutionBoundary a p) flushed with ⟨-, -, hz⟩ | ⟨-, hz⟩ <;>
      rw [hz] <;> simpa using keep

@[simp] theorem runQueue_nil (cfg : Cfg) (a : Asm) :
    runQueue cfg [] a = { asm := { a with inq := [] }, raised := none } := rfl

/-- RUN stops before the first point once a frame is valid. -/
theorem runQueue_cons_frame (cfg : Cfg) (p : Point) (rest : List Point) (a : Asm)
    (h : a.frameValid = true) :
    runQueue cfg (p :: rest) a = { asm := { a with inq := p :: rest }, raised := none } := by
  simp [runQueue, h]

/-- RUN stops at a point whose STEP raises, which stays at the head (43_assembler.md R224). -/
theorem runQueue_cons_raise (cfg : Cfg) (p : Point) (rest : List Point) (a : Asm) (e : ErrRec)
    (h : a.frameValid = false) (hs : stepPoint cfg a p = .raise e) :
    runQueue cfg (p :: rest) a =
      { asm := latchFatal { a with inq := p :: rest } e, raised := some e } := by
  simp [runQueue, h, hs]

/-- RUN goes on after a STEP that did not raise. -/
theorem runQueue_cons_ok (cfg : Cfg) (p : Point) (rest : List Point) (a a' : Asm)
    (h : a.frameValid = false) (hs : stepPoint cfg a p = .ok a') :
    runQueue cfg (p :: rest) a = runQueue cfg rest a' := by
  simp [runQueue, h, hs]

/-- The assembler with another pending-input queue. -/
def Asm.withQueue (a : Asm) (queue : List Point) : Asm := { a with inq := queue }

/-- STEP neither reads nor writes the pending-input queue. -/
theorem stepPoint_withQueue (cfg : Cfg) (a : Asm) (p : Point) (queue : List Point) :
    stepPoint cfg (a.withQueue queue) p =
      match stepPoint cfg a p with
      | .ok a' => .ok (a'.withQueue queue)
      | .raise e => .raise e := by
  have hflush : flushIfBoundary cfg (a.withQueue queue) p =
      match flushIfBoundary cfg a p with
      | .ok a' => .ok (a'.withQueue queue)
      | .raise e => .raise e := by
    unfold flushIfBoundary flushColumn
    rw [show columnBoundary (a.withQueue queue) p = columnBoundary a p from rfl]
    by_cases hb : columnBoundary a p = true
    · rw [if_pos hb, if_pos hb]
      by_cases hl : a.colbuf.length ≠ cfg.beamCount
      · rw [if_pos hl, if_pos (show (a.withQueue queue).colbuf.length ≠ cfg.beamCount from hl)]
        rfl
      · rw [if_neg hl, if_neg (show ¬(a.withQueue queue).colbuf.length ≠ cfg.beamCount from hl)]
        by_cases hr : cfg.revCap = some a.rev.length
        · rw [if_pos hr, if_pos (show cfg.revCap = some (a.withQueue queue).rev.length from hr)]
          rfl
        · rw [if_neg hr, if_neg (show ¬cfg.revCap = some (a.withQueue queue).rev.length from hr)]
          rfl
    · rw [if_neg hb, if_neg hb]
  have hfinal (boundary : Bool) (b : Asm) :
      finaliseIfBoundary boundary (b.withQueue queue) = (finaliseIfBoundary boundary b).withQueue queue := by
    unfold finaliseIfBoundary
    rw [show (b.withQueue queue).rev = b.rev from rfl]
    split <;> rfl
  unfold stepPoint
  rw [hflush, show revolutionBoundary (a.withQueue queue) p = revolutionBoundary a p from rfl]
  cases flushIfBoundary cfg a p with
  | raise e => rfl
  | ok b =>
    simp only [hfinal]
    rfl

/-- RUN takes its points from the queue it is given: what the assembler held queued does not matter. -/
theorem runQueue_withQueue (cfg : Cfg) (points : List Point) (a : Asm) (queue : List Point) :
    runQueue cfg points (a.withQueue queue) = runQueue cfg points a := by
  induction points generalizing a with
  | nil => rfl
  | cons p rest ih =>
    unfold runQueue
    rw [stepPoint_withQueue, show (a.withQueue queue).frameValid = a.frameValid from rfl]
    cases stepPoint cfg a p with
    | raise e => rfl
    | ok a' => simp only [ih]; rfl

/-- Everything RUN does: an assembler property that every STEP keeps holds of the one it leaves, but for the
queue and the latch that RUN itself writes. -/
theorem runQueue_induct (cfg : Cfg) (P : Asm → Prop)
    (hstep : ∀ a a' p, a.frameValid = false → P a → stepPoint cfg a p = .ok a' → P a')
    (queue : List Point) (a : Asm) (h : P a) :
    ∃ b left, P b ∧
      ((runQueue cfg queue a = { asm := { b with inq := left }, raised := none } ∧
          (left = [] ∨ b.frameValid = true)) ∨
        (∃ e p, left.head? = some p ∧ b.frameValid = false ∧ stepPoint cfg b p = .raise e ∧
          runQueue cfg queue a = { asm := latchFatal { b with inq := left } e, raised := some e })) := by
  induction queue generalizing a with
  | nil => exact ⟨a, [], h, .inl ⟨rfl, .inl rfl⟩⟩
  | cons p rest ih =>
    cases hf : a.frameValid with
    | true => exact ⟨a, p :: rest, h, .inl ⟨runQueue_cons_frame cfg p rest a hf, .inr hf⟩⟩
    | false =>
      cases hs : stepPoint cfg a p with
      | raise e =>
        exact ⟨a, p :: rest, h, .inr ⟨e, p, rfl, hf, hs, runQueue_cons_raise cfg p rest a e hf hs⟩⟩
      | ok a' =>
        rw [runQueue_cons_ok cfg p rest a a' hf hs]
        exact ih a' (hstep a a' p hf h hs)

/-- A batch accepted and run either raises the latched error or completes with the optional frame. -/
theorem runBatch_cases (batch : List Point) (s : State) :
    (∃ r e, r = runQueue s.cfg (s.asm.inq ++ batch) (clearFrame s.asm) ∧ r.raised = some e ∧
      runBatch batch s = .raise { s with asm := r.asm } e) ∨
    (∃ r, r = runQueue s.cfg (s.asm.inq ++ batch) (clearFrame s.asm) ∧ r.raised = none ∧
      runBatch batch s = .complete { s with asm := r.asm } (.frame (emittedFrame r.asm))) := by
  unfold runBatch
  simp only [clearFrame_inq]
  cases h : (runQueue s.cfg (s.asm.inq ++ batch) (clearFrame s.asm)).raised with
  | some e => exact .inl ⟨_, e, rfl, h, rfl⟩
  | none => exact .inr ⟨_, rfl, h, rfl⟩

/-- Everything a push can do: repeat the latched error, find no result, find no room, or run its batch, with
the converter result consumed when that is the batch. -/
theorem pushPoints_cases (src : PushSource) (s : State) :
    (s.asm.fatal = true ∧ pushPoints src s = .raise s s.asm.fatalErr) ∨
    (s.asm.fatal = false ∧ src = .pts ∧ s.pts = .none ∧
      pushPoints src s = .raise s (mkErr .notReady 3 0 0)) ∨
    (∃ batch s1, s.asm.fatal = false ∧
      ((src = .pts ∧ s.pts ≠ .none ∧ batch = feed s.dualsel s.pts ∧ s1 = { s with pts := .none }) ∨
        (src = .host ∧ batch = s.payload.pts ∧ s1 = s)) ∧
      ((exceeds s.cfg.inqCap (s.asm.inq.length + batch.length) = true ∧
          pushPoints src s = .raise s
            (mkErr .bufferOverflow 1 (s.cfg.inqCap.getD 0) (s.asm.inq.length + batch.length))) ∨
        (exceeds s.cfg.inqCap (s.asm.inq.length + batch.length) = false ∧
          pushPoints src s = runBatch batch s1))) := by
  unfold pushPoints
  cases hf : s.asm.fatal with
  | true => exact .inl ⟨rfl, if_pos rfl⟩
  | false =>
    have room (batch : List Point) (r : Reply) :
        (exceeds s.cfg.inqCap (s.asm.inq.length + batch.length) = true ∧
          withRoom batch s r = .raise s
            (mkErr .bufferOverflow 1 (s.cfg.inqCap.getD 0) (s.asm.inq.length + batch.length))) ∨
        (exceeds s.cfg.inqCap (s.asm.inq.length + batch.length) = false ∧ withRoom batch s r = r) := by
      unfold withRoom
      cases h : exceeds s.cfg.inqCap (s.asm.inq.length + batch.length) with
      | true => exact .inl ⟨rfl, if_pos h⟩
      | false => exact .inr ⟨rfl, if_neg (by simp [h])⟩
    rw [if_neg Bool.false_ne_true]
    cases src with
    | host => exact .inr (.inr ⟨s.payload.pts, s, rfl, .inr ⟨rfl, rfl, rfl⟩, room _ _⟩)
    | pts =>
      unfold pushConverted
      cases hp : s.pts with
      | none => exact .inr (.inl ⟨rfl, rfl, rfl, rfl⟩)
      | single ps =>
        exact .inr (.inr ⟨ps, { s with pts := .none }, rfl, .inl ⟨rfl, by simp, rfl, rfl⟩, room _ _⟩)
      | dual pairs =>
        exact .inr (.inr ⟨feed s.dualsel (.dual pairs), { s with pts := .none }, rfl,
          .inl ⟨rfl, by simp, rfl, rfl⟩, room _ _⟩)

/-- `PKT.LOAD` completes on exactly PKT_LEN bytes and raises on any other length. -/
theorem loadPacket_cases (rx : List Byte) (s : State) :
    (rx.length = pktLen s.cfg ∧
      loadPacket rx s = .complete { s with pkt := Memory.ofBytes rx, pktOk := true } .none) ∨
    (rx.length ≠ pktLen s.cfg ∧
      loadPacket rx s = .raise { s with pktOk := false }
        (mkErr .malformedPacket 0 (pktLen s.cfg) rx.length)) := by
  unfold loadPacket
  by_cases h : rx.length = pktLen s.cfg
  · exact .inl ⟨h, if_pos h⟩
  · exact .inr ⟨h, if_neg h⟩

/-- Everything `PROC` can do: repeat the latched error, stop at the load, stop at the conversion, or end as the
push of its result ends (43_assembler.md R230). -/
theorem processPacket_cases (rx : List Byte) (s : State) :
    (s.asm.fatal = true ∧ processPacket rx s = .raise s s.asm.fatalErr) ∨
    (s.asm.fatal = false ∧ rx.length ≠ pktLen s.cfg ∧
      processPacket rx s = .raise { s with pktOk := false }
        (mkErr .malformedPacket 0 (pktLen s.cfg) rx.length)) ∨
    (∃ s1, s.asm.fatal = false ∧ rx.length = pktLen s.cfg ∧
      s1 = { s with pkt := Memory.ofBytes rx, pktOk := true } ∧
      ((∃ s2 e, convert s.policy s1 = .raise s2 e ∧ processPacket rx s = .raise s2 e) ∨
        (∃ w, convert s.policy s1 = .refused w ∧ processPacket rx s = .refused w) ∨
        (∃ s2 out, convert s.policy s1 = .complete s2 out ∧
          processPacket rx s = pushPoints .pts s2))) := by
  unfold processPacket
  cases hf : s.asm.fatal with
  | true => exact .inl ⟨rfl, if_pos rfl⟩
  | false =>
    rw [if_neg Bool.false_ne_true]
    rcases loadPacket_cases rx s with ⟨hl, h⟩ | ⟨hl, h⟩ <;> rw [h]
    · refine .inr (.inr ⟨_, rfl, hl, rfl, ?_⟩)
      generalize hs1 : { s with pkt := Memory.ofBytes rx, pktOk := true } = s1
      have hpol : s1.policy = s.policy := by rw [← hs1]
      have key : andThen (andThen (.complete s1 .none) fun s1 => convert s1.policy s1) (pushPoints .pts) =
          andThen (convert s.policy s1) (pushPoints .pts) := by rw [← hpol]; rfl
      rw [key]
      cases hc : convert s.policy s1 with
      | complete s2 out => exact .inr (.inr ⟨s2, out, rfl, rfl⟩)
      | raise s2 e => exact .inl ⟨s2, e, rfl, rfl⟩
      | refused w => exact .inr (.inl ⟨w, rfl, rfl⟩)
      | fault f =>
        exfalso
        unfold convert conversionFails conversionGives at hc
        repeat' (first | split at hc | cases hc)
    · exact .inr (.inl ⟨rfl, hl, rfl⟩)

end Sys2Proof.Machine
end

