-- ==== Sys2Proof/Laws/Calibration.lean ====
section
/-!
SUPPORT. What loading a calibration table can do (41_calibration.md R152, R153).
-/

namespace Sys2Proof.Machine

open Sys2Proof

/-- `CAL.BUILTIN`: an unknown model, or the model's table made active. -/
theorem loadBuiltin_cases (m : Nat) (s : State) :
    (s.cfg.builtin.length ≤ m ∧
      loadBuiltin m s = .raise s (mkErr .indexOutOfRange 3 s.cfg.builtin.length m)) ∨
    (∃ t, s.cfg.builtin[m]? = some t ∧
      loadBuiltin m s = .complete { s with cal := t, calOk := true } .none) := by
  unfold loadBuiltin
  cases h : s.cfg.builtin[m]? with
  | none => exact .inl ⟨List.getElem?_eq_none_iff.mp h, rfl⟩
  | some t => exact .inr ⟨t, rfl, rfl⟩

/-- No bad index means exactly the consecutive sequence from the origin (41_calibration.md R153 check 3). -/
theorem firstBadIndex_none_iff (origin : Nat) (records : List CalRecord) :
    firstBadIndex origin records = none ↔
      ∀ i (h : i < records.length), records[i].index.toNat = origin + i := by
  induction records generalizing origin with
  | nil => simp [firstBadIndex]
  | cons r rs ih =>
    unfold firstBadIndex
    constructor
    · intro h i hi
      split at h
      · cases i with
        | zero => simpa
        | succ i =>
          have := (ih (origin + 1)).mp h i (by simpa using hi)
          simp only [List.getElem_cons_succ]
          omega
      · cases h
    · intro h
      have h0 := h 0 (by simp)
      simp only [List.getElem_cons_zero, Nat.add_zero] at h0
      rw [if_pos h0]
      refine (ih (origin + 1)).mpr fun i hi => ?_
      have := h (i + 1) (by simpa using hi)
      simp only [List.getElem_cons_succ] at this
      omega

/-- A bad index is the first record that breaks the sequence, reported with what was expected there. -/
theorem firstBadIndex_some_iff (origin : Nat) (records : List CalRecord) (expected actual : Nat) :
    firstBadIndex origin records = some (expected, actual) ↔
      ∃ i, ∃ h : i < records.length,
        (∀ j (hj : j < i), (records[j]'(by omega)).index.toNat = origin + j) ∧
        records[i].index.toNat ≠ origin + i ∧ expected = origin + i ∧ actual = records[i].index.toNat := by
  induction records generalizing origin with
  | nil => simp [firstBadIndex]
  | cons r rs ih =>
    unfold firstBadIndex
    split
    · rename_i h0
      rw [ih (origin + 1)]
      constructor
      · rintro ⟨i, hi, hpre, hne, he, ha⟩
        refine ⟨i + 1, by simpa using hi, ?_, ?_, by omega, by simpa using ha⟩
        · intro j hj
          cases j with
          | zero => simpa using h0
          | succ j =>
            have := hpre j (by omega)
            simp only [List.getElem_cons_succ]
            omega
        · simp only [List.getElem_cons_succ]
          omega
      · rintro ⟨i, hi, hpre, hne, he, ha⟩
        cases i with
        | zero => exact absurd (by simpa using h0) hne
        | succ i =>
          refine ⟨i, by simpa using hi, ?_, ?_, by omega, by simpa using ha⟩
          · intro j hj
            have := hpre (j + 1) (by omega)
            simp only [List.getElem_cons_succ] at this
            omega
          · simp only [List.getElem_cons_succ] at hne
            omega
    · rename_i h0
      simp only [Option.some.injEq, Prod.mk.injEq]
      constructor
      · rintro ⟨rfl, rfl⟩
        exact ⟨0, by simp, by simp, by simpa using h0, by simp, by simp⟩
      · rintro ⟨i, hi, hpre, hne, he, ha⟩
        cases i with
        | zero => exact ⟨by simpa using he.symm, by simpa using ha.symm⟩
        | succ i => exact absurd (by simpa using hpre 0 (by omega)) h0

/-- `CAL.EXT`: one of its four errors with the table unchanged, or the new table made active. -/
theorem loadExternal_cases (tbl : CalPayload) (s : State) :
    (∃ e, loadExternal tbl s = .raise s e) ∨
    (0 < tbl.distanceResolution.toInt ∧ tbl.numLasers.toNat = tbl.records.length ∧
      firstBadIndex s.cfg.calOrigin tbl.records = none ∧ tbl.records.length ≤ s.cfg.calCap ∧
      loadExternal tbl s = .complete { s with cal := tableOfPayload tbl, calOk := true } .none) := by
  unfold loadExternal
  split
  · exact .inl ⟨_, rfl⟩
  · split
    · exact .inl ⟨_, rfl⟩
    · split
      · exact .inl ⟨_, rfl⟩
      · split
        · exact .inl ⟨_, rfl⟩
        · exact .inr ⟨by omega, by omega, ‹_›, by omega, rfl⟩

/-- A loaded table meets 41_calibration.md R151. -/
theorem tableOfPayload_wf (tbl : CalPayload) (cap : Nat) (hres : 0 < tbl.distanceResolution.toInt)
    (hcap : tbl.records.length ≤ cap) (hfits : cap ≤ 4096) : (tableOfPayload tbl).Wf cap := by
  refine ⟨hres, ?_, ?_⟩
  · simp [tableOfPayload, BitVec.toNat_ofNat]
    omega
  · simp [tableOfPayload, BitVec.toNat_ofNat]
    omega

end Sys2Proof.Machine
end

