-- ==== Sys2Proof/Laws/Memory.lean ====
section
/-!
SUPPORT. The packet byte space: every write gives the canonical form, a read after a write gives the bytes
written, and every field of every record lies inside the packet (20_memory.md R65).
-/

namespace Sys2Proof.Machine

open Sys2Proof

theorem ofBytesFrom_addresses (addr : Nat) (bytes : List Byte) :
    ∀ cell ∈ Memory.ofBytesFrom addr bytes, addr ≤ cell.1 ∧ cell.1 < addr + bytes.length := by
  induction bytes generalizing addr with
  | nil => simp [Memory.ofBytesFrom]
  | cons b bs ih =>
    intro cell hcell
    have tail (h : cell ∈ Memory.ofBytesFrom (addr + 1) bs) :
        addr ≤ cell.1 ∧ cell.1 < addr + (b :: bs).length := by
      have := ih (addr + 1) cell h
      simp only [List.length_cons]
      omega
    unfold Memory.ofBytesFrom at hcell
    split at hcell
    · exact tail hcell
    · rcases List.mem_cons.mp hcell with rfl | h
      · simp
      · exact tail h

theorem ofBytesFrom_wf (addr : Nat) (bytes : List Byte) : (Memory.ofBytesFrom addr bytes).Wf := by
  induction bytes generalizing addr with
  | nil => simp [Memory.ofBytesFrom, Memory.Wf]
  | cons b bs ih =>
    obtain ⟨hsorted, hlisted⟩ := ih (addr + 1)
    unfold Memory.ofBytesFrom
    split
    · exact ⟨hsorted, hlisted⟩
    · refine ⟨List.pairwise_cons.mpr ⟨fun cell hcell => ?_, hsorted⟩, ?_⟩
      · have := ofBytesFrom_addresses (addr + 1) bs cell hcell
        simp only
        omega
      · intro cell hcell
        rcases List.mem_cons.mp hcell with rfl | h
        · assumption
        · exact hlisted cell h

/-- The one write to the packet buffer gives the canonical form. -/
theorem ofBytes_wf (bytes : List Byte) : (Memory.ofBytes bytes).Wf := ofBytesFrom_wf 0 bytes

theorem ofBytes_addresses (bytes : List Byte) :
    ∀ cell ∈ Memory.ofBytes bytes, cell.1 < bytes.length := fun cell h => by
  have := ofBytesFrom_addresses 0 bytes cell h
  omega

theorem readByte_cons (addr : Nat) (b : Byte) (m : Memory) (a : Nat) :
    Memory.readByte ((addr, b) :: m) a = if a = addr then b else Memory.readByte m a := by
  unfold Memory.readByte
  by_cases h : a = addr
  · simp [h]
  · have : (a == addr) = false := by simpa using h
    simp [List.lookup_cons, this, h]

theorem readByte_below (addr : Nat) (bytes : List Byte) (a : Nat) (h : a < addr) :
    Memory.readByte (Memory.ofBytesFrom addr bytes) a = unlistedByte := by
  induction bytes generalizing addr with
  | nil => rfl
  | cons b bs ih =>
    unfold Memory.ofBytesFrom
    split
    · exact ih (addr + 1) (by omega)
    · rw [readByte_cons, if_neg (by omega)]
      exact ih (addr + 1) (by omega)

theorem readByte_ofBytesFrom (addr : Nat) (bytes : List Byte) (i : Nat) :
    Memory.readByte (Memory.ofBytesFrom addr bytes) (addr + i) = bytes.getD i unlistedByte := by
  induction bytes generalizing addr i with
  | nil => rfl
  | cons b bs ih =>
    unfold Memory.ofBytesFrom
    cases i with
    | zero =>
      split
      · rw [readByte_below _ _ _ (by omega)]
        simpa using Eq.symm ‹b = unlistedByte›
      · simp [readByte_cons]
    | succ i =>
      have shift : addr + (i + 1) = addr + 1 + i := by omega
      split
      · rw [shift, ih]
        rfl
      · rw [readByte_cons, if_neg (by omega), shift, ih]
        rfl

/-- Reading a byte after the whole buffer was written gives the byte written. -/
theorem readByte_ofBytes (bytes : List Byte) (i : Nat) :
    Memory.readByte (Memory.ofBytes bytes) i = bytes.getD i unlistedByte := by
  have h := readByte_ofBytesFrom 0 bytes i
  rwa [Nat.zero_add] at h

/-- MemRead of n bytes is an unsigned 8n-bit integer (00_scope.md R10). -/
theorem memRead_lt (m : Memory) (addr n : Nat) : memRead m addr n < 256 ^ n := by
  induction n generalizing addr with
  | zero => simp [memRead]
  | succ n ih =>
    have hb := (Memory.readByte m addr).isLt
    have := ih (addr + 1)
    simp only [memRead, pow_succ]
    omega

/-- MemRead depends on the bytes it reads and on no other. -/
theorem memRead_congr (m m' : Memory) (addr n : Nat)
    (h : ∀ i, i < n → Memory.readByte m (addr + i) = Memory.readByte m' (addr + i)) :
    memRead m addr n = memRead m' addr n := by
  induction n generalizing addr with
  | zero => rfl
  | succ n ih =>
    have h0 := h 0 (by omega)
    simp only [Nat.add_zero] at h0
    simp only [memRead, h0]
    rw [ih (addr + 1) fun i hi => by simpa [Nat.add_assoc, Nat.add_comm 1 i] using h (i + 1) (by omega)]

/-- A column record lies inside the packet (20_memory.md R65). -/
theorem column_in_packet (cfg : Cfg) (c : Nat) (hc : c < cfg.C) :
    colBase cfg c + colLen cfg ≤ pktLen cfg := by
  have : (c + 1) * colLen cfg ≤ cfg.C * colLen cfg := Nat.mul_le_mul_right _ hc
  simp only [colBase, pktLen]
  rw [Nat.add_mul] at this
  omega

/-- A pixel record lies inside its column, before the marker (20_memory.md R61). -/
theorem pixel_in_column (cfg : Cfg) (c k : Nat) (hk : k < cfg.N) :
    pxBase cfg c k + 16 ≤ colBase cfg c + colLen cfg := by
  simp only [pxBase, colLen]
  omega

end Sys2Proof.Machine
end

