-- ==== Sys2Proof/Laws/Completion.lean ====
section
/-!
SUPPORT. How an operation ends: `finish`, the field readers, and a step. Each lemma says once everything
its operation can do.
-/

namespace Sys2Proof.Machine

open Sys2Proof

@[simp] theorem finish_complete (s : State) (out : Output) :
    finish (.complete s out) = .next (s.completed out) := rfl

@[simp] theorem finish_raise (s : State) (e : ErrRec) : finish (.raise s e) = .next (s.raised e) := rfl

@[simp] theorem finish_fault (f : Fault) : finish (.fault f) = .fault f := rfl

@[simp] theorem finish_refused (r : Refusal) : finish (.refused r) = .refused r := rfl

/-- An operation answers a next state exactly when its rule completed or raised. -/
theorem finish_next_iff (r : Reply) (t : State) :
    finish r = .next t ↔
      (∃ s out, r = .complete s out ∧ t = s.completed out) ∨
      (∃ s e, r = .raise s e ∧ t = s.raised e) := by
  cases r <;> simp [finish, eq_comm]

/-- Inside the packet a field read completes. -/
theorem readField_inside (s : State) (addr width : Nat) (v : BitVec 64)
    (h : addr + width ≤ pktLen s.cfg) : readField s addr width v = completeScalar s v := if_pos h

/-- A `COL.*` operation whose field lies in its column: not ready, column out of range, or the field. -/
theorem columnOp_cases (s : State) (c addr width : Nat) (v : BitVec 64)
    (h : addr + width ≤ colBase s.cfg c + colLen s.cfg) :
    (s.pktOk = false ∧ columnOp s c addr width v = .raise s (mkErr .notReady 1 0 0)) ∨
    (s.pktOk = true ∧ s.cfg.C ≤ c ∧
      columnOp s c addr width v = .raise s (mkErr .indexOutOfRange 1 s.cfg.C c)) ∨
    (s.pktOk = true ∧ c < s.cfg.C ∧ columnOp s c addr width v = completeScalar s v) := by
  unfold columnOp
  by_cases hp : s.pktOk = false
  · exact .inl ⟨hp, if_pos hp⟩
  · have hp' : s.pktOk = true := by simpa using hp
    by_cases hc : s.cfg.C ≤ c
    · exact .inr (.inl ⟨hp', hc, by rw [if_neg hp, if_pos hc]⟩)
    · have := column_in_packet s.cfg c (by omega)
      exact .inr (.inr ⟨hp', by omega, by rw [if_neg hp, if_neg hc, readField_inside _ _ _ _ (by omega)]⟩)

/-- A `PX.*` operation whose field lies in its pixel: not ready, an index out of range, or the field. -/
theorem pixelOp_cases (s : State) (c k addr width : Nat) (v : BitVec 64)
    (h : addr + width ≤ pxBase s.cfg c k + 12) :
    (s.pktOk = false ∧ pixelOp s c k addr width v = .raise s (mkErr .notReady 1 0 0)) ∨
    (s.pktOk = true ∧ s.cfg.C ≤ c ∧
      pixelOp s c k addr width v = .raise s (mkErr .indexOutOfRange 1 s.cfg.C c)) ∨
    (s.pktOk = true ∧ c < s.cfg.C ∧ s.cfg.N ≤ k ∧
      pixelOp s c k addr width v = .raise s (mkErr .indexOutOfRange 2 s.cfg.N k)) ∨
    (s.pktOk = true ∧ c < s.cfg.C ∧ k < s.cfg.N ∧ pixelOp s c k addr width v = completeScalar s v) := by
  unfold pixelOp
  by_cases hp : s.pktOk = false
  · exact .inl ⟨hp, if_pos hp⟩
  · have hp' : s.pktOk = true := by simpa using hp
    by_cases hc : s.cfg.C ≤ c
    · exact .inr (.inl ⟨hp', hc, by rw [if_neg hp, if_pos hc]⟩)
    · by_cases hk : s.cfg.N ≤ k
      · exact .inr (.inr (.inl ⟨hp', by omega, hk, by rw [if_neg hp, if_neg hc, if_pos hk]⟩))
      · have h1 := column_in_packet s.cfg c (by omega)
        have h2 := pixel_in_column s.cfg c k (by omega)
        exact .inr (.inr (.inr ⟨hp', by omega, by omega, by
          rw [if_neg hp, if_neg hc, if_neg hk, readField_inside _ _ _ _ (by omega)]⟩))

/-- The end of a step drops the payload and changes nothing else. -/
theorem closeOperation_next_iff (o : Outcome) (t : State) :
    closeOperation o = .next t ↔ ∃ s, o = .next s ∧ t = s.dropPayload := by
  cases o <;> simp [closeOperation, eq_comm]

/-- A command word does its operation, or IllegalCommand. -/
theorem performWord_cases (w : Word) (s : State) :
    (∃ i, decode w = .ok i ∧ performWord w s = exec i s) ∨
    ((∀ i, decode w ≠ .ok i) ∧ performWord w s = illegalCommand w s) := by
  unfold performWord
  cases h : decode w with
  | ok i => exact .inl ⟨i, rfl, rfl⟩
  | reservedOpcode => exact .inr ⟨by simp, rfl⟩
  | mustBeZero => exact .inr ⟨by simp, rfl⟩

/-- Everything `issue` can do: wait with no operation issued, or perform the next one. -/
theorem issue_cases (s : State) :
    (s.cmds = [] ∧ issue s = .next s) ∨
    (∃ cmd rest, s.cmds = cmd :: rest ∧
      issue s = closeOperation (performWord cmd.word (s.accept cmd rest))) := by
  unfold issue
  cases h : s.cmds with
  | nil => exact .inl ⟨rfl, rfl⟩
  | cons cmd rest => exact .inr ⟨cmd, rest, rfl, rfl⟩

end Sys2Proof.Machine
end

