-- ==== Sys2Proof/Laws/Converter.lean ====
section
/-!
SUPPORT. What a conversion can do (42_converter.md R171), the shape of its results, and the bounds of TRIG.
-/

namespace Sys2Proof.Machine

open Sys2Proof

/-- A conversion raises with no points, is refused, or gives a single or a dual result. -/
theorem convert_cases (policy : Policy) (s : State) :
    (∃ e, convert policy s = .raise { s with pts := .none } e) ∨
    (s.cfg.C % 2 = 1 ∧ convert policy s = .refused .dualShapeOddColumns) ∨
    (∃ p, s.pktOk = true ∧ s.calOk = true ∧ s.cal.num.toNat = s.cfg.N ∧
      ((∃ tag, resolvePolicy policy s.retmode = some (.single tag) ∧
          p = .single (singlePoints s.cfg s.pkt s.cal tag)) ∨
        (resolvePolicy policy s.retmode = some .dual ∧ s.cfg.C % 2 = 0 ∧
          p = .dual (dualPairs s.cfg s.pkt s.cal))) ∧
      convert policy s = .complete { s with pts := p } (.points p)) := by
  unfold convert conversionFails conversionGives
  by_cases hp : s.pktOk = false
  · exact .inl ⟨_, if_pos hp⟩
  rw [if_neg hp]
  by_cases hc : s.calOk = false
  · exact .inl ⟨_, if_pos hc⟩
  rw [if_neg hc]
  cases hr : resolvePolicy policy s.retmode with
  | none => exact .inl ⟨_, rfl⟩
  | some form =>
    by_cases hn : s.cal.num.toNat ≠ s.cfg.N
    · exact .inl ⟨_, if_pos hn⟩
    · simp only [if_neg hn]
      have hp' : s.pktOk = true := by simpa using hp
      have hc' : s.calOk = true := by simpa using hc
      cases form with
      | single tag => exact .inr (.inr ⟨_, hp', hc', by omega, .inl ⟨tag, rfl, rfl⟩, rfl⟩)
      | dual =>
        by_cases hodd : s.cfg.C % 2 = 1
        · exact .inr (.inl ⟨hodd, if_pos hodd⟩)
        · exact .inr (.inr ⟨_, hp', hc', by omega, .inr ⟨rfl, by omega, rfl⟩, if_neg hodd⟩)

/-- A sequence built columns outer, channels inner has one entry per pair. -/
theorem length_scan {α : Type} (columns channels : Nat) (f : Nat → Nat → α) :
    ((List.range columns).flatMap fun c => (List.range channels).map (f c)).length = columns * channels := by
  induction columns with
  | zero => simp
  | succ n ih => simp [List.range_succ, ih, Nat.add_mul]

/-- Entry `c * channels + k` of such a sequence is the one of column `c` and channel `k`. -/
theorem getElem?_scan {α : Type} (columns channels : Nat) (f : Nat → Nat → α) (c k : Nat)
    (hc : c < columns) (hk : k < channels) :
    ((List.range columns).flatMap fun c => (List.range channels).map (f c))[c * channels + k]? =
      some (f c k) := by
  induction columns with
  | zero => omega
  | succ n ih =>
    rw [List.range_succ, List.flatMap_append]
    by_cases h : c < n
    · have hlt : c * channels + k < n * channels := by
        have : (c + 1) * channels ≤ n * channels := Nat.mul_le_mul_right _ h
        rw [Nat.add_mul] at this
        omega
      rw [List.getElem?_append_left (by rw [length_scan]; exact hlt)]
      exact ih h
    · have hcn : c = n := by omega
      subst hcn
      rw [List.getElem?_append_right (by rw [length_scan]; omega), length_scan]
      simp [hk]

theorem length_singlePoints (cfg : Cfg) (m : Memory) (cal : CalTable) (tag : Ret) :
    (singlePoints cfg m cal tag).length = cfg.C * cfg.N := length_scan _ _ _

theorem length_dualPairs (cfg : Cfg) (m : Memory) (cal : CalTable) :
    (dualPairs cfg m cal).length = cfg.C / 2 * cfg.N := length_scan _ _ _

theorem getElem?_singlePoints (cfg : Cfg) (m : Memory) (cal : CalTable) (tag : Ret) (c k : Nat)
    (hc : c < cfg.C) (hk : k < cfg.N) :
    (singlePoints cfg m cal tag)[c * cfg.N + k]? = some (pointAt cfg m cal c k tag) :=
  getElem?_scan _ _ _ c k hc hk

theorem getElem?_dualPairs (cfg : Cfg) (m : Memory) (cal : CalTable) (j k : Nat)
    (hj : j < cfg.C / 2) (hk : k < cfg.N) :
    (dualPairs cfg m cal)[j * cfg.N + k]? =
      some (pointAt cfg m cal (2 * j) k .last, pointAt cfg m cal (2 * j + 1) k .strongest) :=
  getElem?_scan _ _ _ j k hj hk

/-- 42_converter.md R176 (b), in every configuration that is well formed. -/
theorem sinq_natAbs_le (cfg : Cfg) (h : cfg.TrigTable) (a : Int) : (sinq cfg a).natAbs ≤ 2 ^ 30 := by
  unfold sinq
  rw [List.getD_eq_getElem?_getD]
  cases hv : cfg.sinTab[(a % (cfg.T : Int)).toNat]? with
  | none => simp
  | some v => exact h.2.1 v (List.mem_of_getElem? hv)

theorem cosq_natAbs_le (cfg : Cfg) (h : cfg.TrigTable) (a : Int) : (cosq cfg a).natAbs ≤ 2 ^ 30 :=
  sinq_natAbs_le cfg h _

end Sys2Proof.Machine
end

