-- ==== Sys2Proof/Laws/Decode.lean ====
section
/-!
SUPPORT. The fields of a command word packed from its three fields (30_encoding.md R100).
-/

namespace Sys2Proof

theorem opBits_packWord (op : BitVec 8) (a b : BitVec 12) : opBits (packWord op a b) = op := by
  apply BitVec.eq_of_toNat_eq
  have := op.isLt; have := a.isLt; have := b.isLt
  simp only [opBits, packWord, BitVec.extractLsb'_toNat, BitVec.toNat_append, Nat.shiftRight_eq_div_pow]
  rw [← Nat.shiftLeft_add_eq_or_of_lt a.isLt, ← Nat.shiftLeft_add_eq_or_of_lt b.isLt, Nat.shiftLeft_eq,
    Nat.shiftLeft_eq]
  omega

theorem aBits_packWord (op : BitVec 8) (a b : BitVec 12) : aBits (packWord op a b) = a := by
  apply BitVec.eq_of_toNat_eq
  have := op.isLt; have := a.isLt; have := b.isLt
  simp only [aBits, packWord, BitVec.extractLsb'_toNat, BitVec.toNat_append, Nat.shiftRight_eq_div_pow]
  rw [← Nat.shiftLeft_add_eq_or_of_lt a.isLt, ← Nat.shiftLeft_add_eq_or_of_lt b.isLt, Nat.shiftLeft_eq,
    Nat.shiftLeft_eq]
  omega

theorem bBits_packWord (op : BitVec 8) (a b : BitVec 12) : bBits (packWord op a b) = b := by
  apply BitVec.eq_of_toNat_eq
  have := op.isLt; have := a.isLt; have := b.isLt
  simp only [bBits, packWord, BitVec.extractLsb'_toNat, BitVec.toNat_append, Nat.shiftRight_eq_div_pow]
  rw [← Nat.shiftLeft_add_eq_or_of_lt a.isLt, ← Nat.shiftLeft_add_eq_or_of_lt b.isLt, Nat.shiftLeft_eq,
    Nat.shiftLeft_eq]
  omega

/-- A command word is the packing of its fields. -/
theorem packWord_fields (w : Word) : packWord (opBits w) (aBits w) (bBits w) = w := by
  apply BitVec.eq_of_toNat_eq
  have := w.isLt
  simp only [opBits, aBits, bBits, packWord, BitVec.toNat_append]
  rw [← Nat.shiftLeft_add_eq_or_of_lt (BitVec.isLt _), ← Nat.shiftLeft_add_eq_or_of_lt (BitVec.isLt _)]
  simp only [Nat.shiftLeft_eq, BitVec.extractLsb'_toNat, Nat.shiftRight_eq_div_pow]
  omega

end Sys2Proof
end

