-- ==== Sys2Proof/Laws/PerInstr.lean ====
section
/-!
SUPPORT. One family of laws, an instruction at a time: every encoded operation matches its row of
spec/opcode_table.json, that is its must-match bits (30_encoding.md R100, R101) are the row's.
-/

namespace Sys2Proof.Laws.TableRow

open Sys2Proof

/-- The `mask` of an operation's row of spec/opcode_table.json. -/
def rowMask : Instr → Word
  | .nop => 0xFFFFFFFF
  | .sysReset => 0xFFFFFFFF
  | .asmReset => 0xFFFFFFFF
  | .csrRd _ => 0xFF000FFF
  | .csrWr _ _ => 0xFF000000
  | .pktLoad => 0xFFFFFFFF
  | .pxDist _ _ => 0xFF000000
  | .pxRefl _ _ => 0xFF000000
  | .pxSig _ _ => 0xFF000000
  | .pxNoise _ _ => 0xFF000000
  | .colTs _ => 0xFF000FFF
  | .colMid _ => 0xFF000FFF
  | .colFid _ => 0xFF000FFF
  | .colEnc _ => 0xFF000FFF
  | .colValid _ => 0xFF000FFF
  | .colAzdeg _ => 0xFF000FFF
  | .colAzrad _ => 0xFF000FFF
  | .calBuiltin _ => 0xFFFFF000
  | .calExt => 0xFFFFFFFF
  | .calGet _ _ => 0xFFFFC000
  | .calRes => 0xFFFFFFFF
  | .calNum => 0xFFFFFFFF
  | .cvtLast => 0xFFFFFFFF
  | .cvtStrongest => 0xFFFFFFFF
  | .cvtDual => 0xFFFFFFFF
  | .cvtRuntime => 0xFFFFFFFF
  | .asmPush _ => 0xFFFFFFFE
  | .proc => 0xFFFFFFFF

/-- The `match` of an operation's row of spec/opcode_table.json. -/
def rowMatch : Instr → Word
  | .nop => 0x00000000
  | .sysReset => 0x01000000
  | .asmReset => 0x02000000
  | .csrRd _ => 0x04000000
  | .csrWr _ _ => 0x05000000
  | .pktLoad => 0x10000000
  | .pxDist _ _ => 0x11000000
  | .pxRefl _ _ => 0x12000000
  | .pxSig _ _ => 0x13000000
  | .pxNoise _ _ => 0x14000000
  | .colTs _ => 0x18000000
  | .colMid _ => 0x19000000
  | .colFid _ => 0x1A000000
  | .colEnc _ => 0x1B000000
  | .colValid _ => 0x1C000000
  | .colAzdeg _ => 0x1D000000
  | .colAzrad _ => 0x1E000000
  | .calBuiltin _ => 0x20000000
  | .calExt => 0x21000000
  | .calGet _ _ => 0x22000000
  | .calRes => 0x23000000
  | .calNum => 0x24000000
  | .cvtLast => 0x30000000
  | .cvtStrongest => 0x31000000
  | .cvtDual => 0x32000000
  | .cvtRuntime => 0x33000000
  | .asmPush _ => 0x40000000
  | .proc => 0x41000000

/-- The law: the encoded word has the row's fixed bits. -/
def Statement (i : Instr) : Prop := encode i &&& rowMask i = rowMatch i

/-- Masking a command word field by field. -/
theorem packWord_and (op op' : BitVec 8) (a a' b b' : BitVec 12) :
    packWord op a b &&& packWord op' a' b' = packWord (op &&& op') (a &&& a') (b &&& b') := by
  change (op ++ a ++ b : BitVec (8 + 12 + 12)) &&& (op' ++ a' ++ b' : BitVec (8 + 12 + 12)) = _
  rw [BitVec.and_append, BitVec.and_append]
  rfl

/-- A row that fixes the opcode only (formats CK and RW). -/
theorem opcode_fixed (op : BitVec 8) (a b : BitVec 12) :
    packWord op a b &&& 0xFF000000 = packWord op 0 0 := by
  have h : (0xFF000000 : Word) = packWord 0xFF 0 0 := by decide
  rw [h, packWord_and]
  congr 1
  · exact BitVec.and_allOnes
  · exact BitVec.and_zero
  · exact BitVec.and_zero

/-- A row that fixes the opcode and `b` (formats CC and RA). -/
theorem opcode_and_b_fixed (op : BitVec 8) (a b : BitVec 12) :
    packWord op a b &&& 0xFF000FFF = packWord op 0 b := by
  have h : (0xFF000FFF : Word) = packWord 0xFF 0 0xFFF := by decide
  rw [h, packWord_and]
  congr 1
  · exact BitVec.and_allOnes
  · exact BitVec.and_zero
  · exact BitVec.and_allOnes

/-- A row that fixes the opcode and `a` (format M). -/
theorem opcode_and_a_fixed (op : BitVec 8) (a b : BitVec 12) :
    packWord op a b &&& 0xFFFFF000 = packWord op a 0 := by
  have h : (0xFFFFF000 : Word) = packWord 0xFF 0xFFF 0 := by decide
  rw [h, packWord_and]
  congr 1
  · exact BitVec.and_allOnes
  · exact BitVec.and_allOnes
  · exact BitVec.and_zero

/-- A row that fixes the opcode and `a[11:2]` (format FK). -/
theorem opcode_and_high_a_fixed (op : BitVec 8) (a b : BitVec 12) :
    packWord op a b &&& 0xFFFFC000 = packWord op (a &&& 0xFFC) 0 := by
  have h : (0xFFFFC000 : Word) = packWord 0xFF 0xFFC 0 := by decide
  rw [h, packWord_and]
  congr 1
  · exact BitVec.and_allOnes
  · exact BitVec.and_zero

theorem nop : Statement .nop := rfl

theorem sysReset : Statement .sysReset := rfl

theorem asmReset : Statement .asmReset := rfl

theorem csrRd (r : Nat) : Statement (.csrRd r) := (opcode_and_b_fixed _ _ _).trans rfl

theorem csrWr (r : Nat) (v : BitVec 12) : Statement (.csrWr r v) := (opcode_fixed _ _ _).trans rfl

theorem pktLoad : Statement .pktLoad := rfl

theorem pxDist (c : Nat) (k : Nat) : Statement (.pxDist c k) := (opcode_fixed _ _ _).trans rfl

theorem pxRefl (c : Nat) (k : Nat) : Statement (.pxRefl c k) := (opcode_fixed _ _ _).trans rfl

theorem pxSig (c : Nat) (k : Nat) : Statement (.pxSig c k) := (opcode_fixed _ _ _).trans rfl

theorem pxNoise (c : Nat) (k : Nat) : Statement (.pxNoise c k) := (opcode_fixed _ _ _).trans rfl

theorem colTs (c : Nat) : Statement (.colTs c) := (opcode_and_b_fixed _ _ _).trans rfl

theorem colMid (c : Nat) : Statement (.colMid c) := (opcode_and_b_fixed _ _ _).trans rfl

theorem colFid (c : Nat) : Statement (.colFid c) := (opcode_and_b_fixed _ _ _).trans rfl

theorem colEnc (c : Nat) : Statement (.colEnc c) := (opcode_and_b_fixed _ _ _).trans rfl

theorem colValid (c : Nat) : Statement (.colValid c) := (opcode_and_b_fixed _ _ _).trans rfl

theorem colAzdeg (c : Nat) : Statement (.colAzdeg c) := (opcode_and_b_fixed _ _ _).trans rfl

theorem colAzrad (c : Nat) : Statement (.colAzrad c) := (opcode_and_b_fixed _ _ _).trans rfl

theorem calBuiltin (m : Nat) : Statement (.calBuiltin m) := (opcode_and_a_fixed _ _ _).trans rfl

theorem calExt : Statement .calExt := rfl

theorem calGet (f : CalField) (k : Nat) : Statement (.calGet f k) := by
  cases f <;> exact (opcode_and_high_a_fixed _ _ _).trans rfl

theorem calRes : Statement .calRes := rfl

theorem calNum : Statement .calNum := rfl

theorem cvtLast : Statement .cvtLast := rfl

theorem cvtStrongest : Statement .cvtStrongest := rfl

theorem cvtDual : Statement .cvtDual := rfl

theorem cvtRuntime : Statement .cvtRuntime := rfl

theorem asmPush (src : PushSource) : Statement (.asmPush src) := by
  cases src <;> rfl

theorem proc : Statement .proc := rfl

end Sys2Proof.Laws.TableRow
end

