-- ==== Sys2Proof/Laws/Trig.lean ====
section
/-!
SUPPORT. The reference sine table meets 42_converter.md R176: every number of it is the real sine rounded to the
nearest integer. The first quarter is followed tick by tick, in integers scaled by 2^64, from the sine and cosine
of one tick; the rest of the revolution is its mirror image.
-/

namespace Sys2Proof.Machine

open Sys2Proof

/-! ### One tick -/

/-- The angle of one tick of 3600 (42_converter.md R176). -/
noncomputable def tick : ℝ := Real.pi / 1800

/-- `2^64 sin(tick)`, to the nearest integer. -/
def tickSin : Int := 32195625690311804

/-- `2^64 cos(tick)`, to the nearest integer. -/
def tickCos : Int := 18446715977718767728

/-- An enclosure of a sine from one of its small argument. -/
theorem sin_enclosed {x lo hi : ℝ} (h0 : 0 ≤ lo) (hl : lo ≤ x) (hh : x ≤ hi) (h1 : hi ≤ 1 / 100) :
    lo - hi ^ 3 / 6 - hi ^ 5 / 100 ≤ Real.sin x ∧ Real.sin x ≤ hi - lo ^ 3 / 6 + hi ^ 5 / 100 := by
  have hx : 0 ≤ x := h0.trans hl
  have hb := abs_le.mp (Real.sin_bound (x := x) (abs_le.mpr ⟨by linarith, by linarith⟩))
  rw [abs_of_nonneg hx] at hb
  have h3 : lo ^ 3 ≤ x ^ 3 := pow_le_pow_left₀ h0 hl 3
  have h3' : x ^ 3 ≤ hi ^ 3 := pow_le_pow_left₀ hx hh 3
  have h5 : x ^ 5 ≤ hi ^ 5 := pow_le_pow_left₀ hx hh 5
  constructor <;> linarith [hb.1, hb.2]

/-- The sine of half a tick, to seventeen places. -/
theorem half_enclosed :
    0.0008726645152351402 ≤ Real.sin (tick / 2) ∧ Real.sin (tick / 2) ≤ 0.0008726645152351506 := by
  have hlo := Real.pi_gt_d20
  have hhi := Real.pi_lt_d20
  have h := sin_enclosed (x := tick / 2) (lo := 3.14159265358979323846 / 3600) (hi := 3.14159265358979323847 / 3600)
    (by norm_num) (by unfold tick; linarith) (by unfold tick; linarith) (by norm_num)
  constructor
  · refine le_trans ?_ h.1; norm_num
  · refine h.2.trans ?_; norm_num

/-- The sine of a quarter of a tick, to sixteen places. -/
theorem quarter_enclosed :
    0.00043633229915332 ≤ Real.sin (tick / 4) ∧ Real.sin (tick / 4) ≤ 0.00043633229915334 := by
  have hlo := Real.pi_gt_d20
  have hhi := Real.pi_lt_d20
  have h := sin_enclosed (x := tick / 4) (lo := 3.14159265358979323846 / 7200) (hi := 3.14159265358979323847 / 7200)
    (by norm_num) (by unfold tick; linarith) (by unfold tick; linarith) (by norm_num)
  constructor
  · refine le_trans ?_ h.1; norm_num
  · refine h.2.trans ?_; norm_num

/-- The cosine of one tick, from the sine of its half. -/
theorem tickCos_near : |(tickCos : ℝ) - 2 ^ 64 * Real.cos tick| ≤ 256 := by
  have h : Real.cos tick = 1 - 2 * Real.sin (tick / 2) ^ 2 := by
    have := Real.cos_sq' (tick / 2)
    rw [show tick = 2 * (tick / 2) by ring, Real.cos_two_mul, this]; ring_nf
  obtain ⟨hl, hh⟩ := half_enclosed
  have h2 := pow_le_pow_left₀ (by norm_num) hl 2
  have h2' := pow_le_pow_left₀ (le_trans (by norm_num) hl) hh 2
  rw [h, abs_le, show (tickCos : ℝ) = 18446715977718767728 by norm_num [tickCos]]
  norm_num at h2 h2' ⊢
  constructor <;> linarith

/-- The sine of one tick, from the sines of its half and its quarter. -/
theorem tickSin_near : |(tickSin : ℝ) - 2 ^ 64 * Real.sin tick| ≤ 512 := by
  have h : Real.sin tick = 2 * Real.sin (tick / 2) * (1 - 2 * Real.sin (tick / 4) ^ 2) := by
    have hc : Real.cos (tick / 2) = 1 - 2 * Real.sin (tick / 4) ^ 2 := by
      have := Real.cos_sq' (tick / 4)
      rw [show tick / 2 = 2 * (tick / 4) by ring, Real.cos_two_mul, this]; ring_nf
    rw [← hc, ← Real.sin_two_mul]; ring_nf
  obtain ⟨hl, hh⟩ := half_enclosed
  obtain ⟨ql, qh⟩ := quarter_enclosed
  have h2 := pow_le_pow_left₀ (by norm_num) ql 2
  have h2' := pow_le_pow_left₀ (le_trans (by norm_num) ql) qh 2
  rw [h, abs_le, show (tickSin : ℝ) = 32195625690311804 by norm_num [tickSin]]
  norm_num at h2 h2' hl hh ⊢
  set a := Real.sin (tick / 2)
  set b := Real.sin (tick / 4) ^ 2
  constructor <;> nlinarith

/-! ### From tick to tick -/

/-- `z` is within `e` of `2^64 x`. -/
def Near (z : Int) (x : ℝ) (e : Nat) : Prop := |(z : ℝ) - 2 ^ 64 * x| ≤ (e : ℝ)

/-- The error after one more tick. -/
def nextError (e : Nat) : Nat := e + e / 512 + 1026

/-- The entries of `table` follow, tick by tick, from `2^64` times a sine and a cosine that are `s` and `c` up to
`e`: each is less than one half from `s / 2^34`. -/
def follows : List Nat → Int → Int → Nat → Bool
  | [], _, _, _ => true
  | v :: rest, s, c, e =>
    decide ((2 ^ 34 * (v : Int) - s).natAbs + e < 2 ^ 33) &&
      follows rest ((s * tickCos + c * tickSin) / 2 ^ 64) ((c * tickCos - s * tickSin) / 2 ^ 64) (nextError e)

/-- A sum of two products, both factors of each enclosed, rounded down. -/
theorem near_of_products {a b p q : Int} {x y u v : ℝ} {e : Nat} (ha : Near a x e) (hb : Near b y e)
    (hp : Near p u 512) (hq : Near q v 512) (hx : |x| ≤ 1) (hy : |y| ≤ 1)
    (hpq : p.natAbs + q.natAbs ≤ 2 ^ 64 + 2 ^ 55) :
    Near ((a * p + b * q) / 2 ^ 64) (x * u + y * v) (nextError e) := by
  unfold Near at *
  have hfloor : |(((a * p + b * q) / 2 ^ 64 : Int) : ℝ) * 2 ^ 64 - (a * p + b * q)| ≤ 2 ^ 64 := by
    have h1 := Int.emod_add_mul_ediv (a * p + b * q) (2 ^ 64)
    have h2 := Int.emod_nonneg (a * p + b * q) (by decide : (2 ^ 64 : Int) ≠ 0)
    have h3 := Int.emod_lt_of_pos (a * p + b * q) (by decide : (0 : Int) < 2 ^ 64)
    have h4 : |((a * p + b * q) / 2 ^ 64) * 2 ^ 64 - (a * p + b * q)| ≤ (2 ^ 64 : Int) := by
      rw [abs_le]; constructor <;> omega
    exact_mod_cast h4
  have hpr : |(p : ℝ)| + |(q : ℝ)| ≤ 2 ^ 64 + 2 ^ 55 := by
    have : ((p.natAbs : ℝ) + q.natAbs) ≤ 2 ^ 64 + 2 ^ 55 := by exact_mod_cast hpq
    simpa [Nat.cast_natAbs] using this
  have hprod (z w : Int) (t r : ℝ) (hz : |(z : ℝ) - 2 ^ 64 * t| ≤ (e : ℝ))
      (hw : |(w : ℝ) - 2 ^ 64 * r| ≤ ((512 : Nat) : ℝ))
      (ht : |t| ≤ 1) : |(z : ℝ) * w - 2 ^ 128 * (t * r)| ≤ e * |(w : ℝ)| + 2 ^ 73 := by
    have h1 : (z : ℝ) * w - 2 ^ 128 * (t * r) = (z - 2 ^ 64 * t) * w + 2 ^ 64 * (t * (w - 2 ^ 64 * r)) := by ring
    have h2 : |(z - 2 ^ 64 * t) * w| ≤ e * |(w : ℝ)| := by
      rw [abs_mul]; exact mul_le_mul_of_nonneg_right hz (abs_nonneg _)
    have h3 : |t * (w - 2 ^ 64 * r)| ≤ 1 * 512 := by
      rw [abs_mul]; exact mul_le_mul ht (by simpa using hw) (abs_nonneg _) (by norm_num)
    have h4 : |2 ^ 64 * (t * (w - 2 ^ 64 * r))| ≤ 2 ^ 73 := by
      rw [abs_mul, abs_of_pos (by norm_num)]
      linarith
    rw [h1]
    exact (abs_add_le _ _).trans (add_le_add h2 h4)
  have hA := abs_le.mp (hprod a p x u ha hp hx)
  have hB := abs_le.mp (hprod b q y v hb hq hy)
  have hF := abs_le.mp hfloor
  have he : (e : ℝ) * |(p : ℝ)| + e * |(q : ℝ)| ≤ e * (2 ^ 64 + 2 ^ 55) := by
    rw [← mul_add]; exact mul_le_mul_of_nonneg_left hpr (Nat.cast_nonneg e)
  have hn : (e : ℝ) + e / 512 + 1025 ≤ (nextError e : Nat) := by
    have h : e ≤ 512 * (e / 512) + 511 := by omega
    have h' : (e : ℝ) ≤ 512 * ((e / 512 : Nat) : ℝ) + 511 := by exact_mod_cast h
    unfold nextError
    push_cast
    linarith
  generalize ((((a * p + b * q) / 2 ^ 64 : Int)) : ℝ) = r at *
  rw [abs_le]
  constructor <;> nlinarith

/-- The addition theorems: the enclosed pair of an angle gives that of the next tick. -/
theorem near_next {s c : Int} {x : ℝ} {e : Nat} (hs : Near s (Real.sin x) e) (hc : Near c (Real.cos x) e) :
    Near ((s * tickCos + c * tickSin) / 2 ^ 64) (Real.sin (x + tick)) (nextError e) ∧
    Near ((c * tickCos - s * tickSin) / 2 ^ 64) (Real.cos (x + tick)) (nextError e) := by
  have hS : Near tickSin (Real.sin tick) 512 := by simpa [Near] using tickSin_near
  have hC : Near tickCos (Real.cos tick) 512 := by simpa [Near] using tickCos_near.trans (by norm_num : (256 : ℝ) ≤ 512)
  have hN : Near (-tickSin) (-Real.sin tick) 512 := by
    unfold Near at hS ⊢
    rw [← abs_neg]
    push_cast
    ring_nf at hS ⊢
    exact hS
  rw [Real.sin_add, Real.cos_add]
  refine ⟨near_of_products hs hc hC hS (Real.abs_sin_le_one x) (Real.abs_cos_le_one x) (by decide), ?_⟩
  have h := near_of_products hc hs hC hN (Real.abs_cos_le_one x) (Real.abs_sin_le_one x) (by decide)
  rwa [Int.mul_neg, ← sub_eq_add_neg, mul_neg, ← sub_eq_add_neg] at h

/-- A table that follows is the sine, rounded. -/
theorem rounded_of_follows (table : List Nat) : ∀ (s c : Int) (e : Nat) (x : ℝ), follows table s c e = true →
    Near s (Real.sin x) e → Near c (Real.cos x) e →
    ∀ (j v : Nat), table[j]? = some v → |(v : ℝ) - 2 ^ 30 * Real.sin (x + j * tick)| < 1 / 2 := by
  induction table with
  | nil => intro s c e x _ _ _ j v hv; simp at hv
  | cons w rest ih =>
    intro s c e x hf hs hc j v hv
    rw [follows, Bool.and_eq_true, decide_eq_true_eq] at hf
    cases j with
    | zero =>
      obtain rfl : w = v := by simpa using hv
      have h := hf.1
      have hd : |(2 : ℝ) ^ 34 * w - s| + (e : ℝ) < 2 ^ 33 := by
        have := h
        have hh : (((2 ^ 34 * (w : Int) - s).natAbs : ℝ) + e) < 2 ^ 33 := by exact_mod_cast this
        rw [Nat.cast_natAbs] at hh; push_cast at hh; norm_num at hh ⊢; exact hh
      unfold Near at hs
      rw [abs_le] at hs
      have hd' := abs_lt.mp (lt_sub_iff_add_lt.mpr hd)
      rw [Nat.cast_zero, zero_mul, add_zero, abs_lt]
      constructor <;> linarith [hs.1, hs.2, hd'.1, hd'.2]
    | succ j =>
      have hn := near_next hs hc
      have := ih _ _ _ (x + tick) hf.2 hn.1 hn.2 j v (by simpa using hv)
      rwa [show x + ((j + 1 : Nat) : ℝ) * tick = x + tick + j * tick by push_cast; ring]

/-- The check of the first quarter of the reference table, by evaluation. -/
theorem sineQuarter_follows : follows sineQuarter 0 (2 ^ 64) 0 = true := by decide +kernel

/-- The first quarter of the reference table is the sine, rounded. -/
theorem sineQuarter_rounded (j v : Nat) (h : sineQuarter[j]? = some v) :
    |(v : ℝ) - 2 ^ 30 * Real.sin (j * tick)| < 1 / 2 := by
  have := rounded_of_follows sineQuarter 0 (2 ^ 64) 0 0 sineQuarter_follows
    (by simp [Near]) (by norm_num [Near]) j v h
  rwa [zero_add] at this
/-! ### The whole revolution -/

theorem length_sineQuarter : sineQuarter.length = 901 := by decide +kernel

theorem length_sineReference : sineReference.length = 3600 := by
  simp [sineReference, length_sineQuarter]

/-- The reference table, quarter by quarter: rising, falling, and both again below zero. -/
theorem sineReference_getElem? (a : Nat) (v : Int) (h : sineReference[a]? = some v) :
    (a < 900 ∧ ∃ w : Nat, sineQuarter[a]? = some w ∧ v = w) ∨
    (900 ≤ a ∧ a < 1800 ∧ ∃ w : Nat, sineQuarter[1800 - a]? = some w ∧ v = w) ∨
    (1800 ≤ a ∧ a < 2700 ∧ ∃ w : Nat, sineQuarter[a - 1800]? = some w ∧ v = -(w : Int)) ∨
    (2700 ≤ a ∧ a < 3600 ∧ ∃ w : Nat, sineQuarter[3600 - a]? = some w ∧ v = -(w : Int)) := by
  have hl := length_sineQuarter
  have rise (b : Nat) (hb : b < 900) : (sineQuarter.take 900)[b]? = sineQuarter[b]? := by
    rw [List.getElem?_take, if_pos hb]
  have fall (b : Nat) (hb : b < 900) : (sineQuarter.reverse.take 900)[b]? = sineQuarter[900 - b]? := by
    rw [List.getElem?_take, if_pos hb, List.getElem?_reverse (by omega), hl]
  have ha : a < 3600 := by
    have := (List.getElem?_eq_some_iff.mp h).1
    rwa [length_sineReference] at this
  have parts : ∀ (x y z u : List Int), x.length = 900 → y.length = 900 → z.length = 900 → u.length = 900 →
      (x ++ (y ++ (z ++ u)))[a]? =
        if a < 900 then x[a]? else if a < 1800 then y[a - 900]? else if a < 2700 then z[a - 1800]? else u[a - 2700]? := by
    intro x y z u hx hy hz hu
    simp only [List.getElem?_append, hx, hy, hz]
    split
    · rfl
    · by_cases h1 : a < 1800
      · rw [if_pos h1, if_pos (by omega)]
      · rw [if_neg h1, if_neg (by omega)]
        by_cases h2 : a < 2700
        · rw [if_pos h2, if_pos (by omega), show a - 900 - 900 = a - 1800 by omega]
        · rw [if_neg h2, if_neg (by omega), show a - 900 - 900 - 900 = a - 2700 by omega]
  unfold sineReference at h
  simp only [] at h
  rw [parts _ _ _ _ (by simp [hl]) (by simp [hl]) (by simp [hl]) (by simp [hl])] at h
  split at h
  · rename_i h1
    rw [List.getElem?_map, rise a h1, Option.map_eq_some_iff] at h
    obtain ⟨w, hw, rfl⟩ := h
    exact .inl ⟨h1, w, hw, rfl⟩
  split at h
  · rename_i h1 h2
    rw [List.getElem?_map, fall _ (by omega), Option.map_eq_some_iff, show 900 - (a - 900) = 1800 - a by omega] at h
    obtain ⟨w, hw, rfl⟩ := h
    exact .inr (.inl ⟨by omega, h2, w, hw, rfl⟩)
  split at h
  · rename_i h1 h2 h3
    rw [List.map_map, List.getElem?_map, rise _ (by omega), Option.map_eq_some_iff] at h
    obtain ⟨w, hw, rfl⟩ := h
    exact .inr (.inr (.inl ⟨by omega, h3, w, hw, rfl⟩))
  · rename_i h1 h2 h3
    rw [List.map_map, List.getElem?_map, fall _ (by omega), Option.map_eq_some_iff,
      show 900 - (a - 2700) = 3600 - a by omega] at h
    obtain ⟨w, hw, rfl⟩ := h
    exact .inr (.inr (.inr ⟨by omega, ha, w, hw, rfl⟩))

/-- Every number of the reference table is the real sine rounded to the nearest integer (42_converter.md R176, last
paragraph); no sine lies half way between two. -/
theorem sineReference_rounded (a : Nat) (v : Int) (h : sineReference[a]? = some v) :
    |(v : ℝ) - 2 ^ 30 * Real.sin (2 * Real.pi * a / 3600)| < 1 / 2 := by
  have angle : 2 * Real.pi * a / 3600 = a * tick := by unfold tick; ring
  have half : Real.pi = 1800 * tick := by unfold tick; ring
  rw [angle]
  rcases sineReference_getElem? a v h with ⟨_, w, hw, rfl⟩ | ⟨h1, h2, w, hw, rfl⟩ | ⟨h1, h2, w, hw, rfl⟩ |
    ⟨h1, h2, w, hw, rfl⟩
  · exact_mod_cast sineQuarter_rounded a w hw
  · have := sineQuarter_rounded _ w hw
    rw [Nat.cast_sub (by omega), sub_mul] at this
    push_cast at this ⊢
    rwa [← half, Real.sin_pi_sub] at this
  · have := sineQuarter_rounded _ w hw
    rw [Nat.cast_sub (by omega), sub_mul] at this
    push_cast at this ⊢
    rw [← half, Real.sin_sub_pi] at this
    rw [← abs_neg]
    ring_nf at this ⊢
    exact this
  · have := sineQuarter_rounded _ w hw
    rw [Nat.cast_sub (by omega), sub_mul] at this
    push_cast at this ⊢
    rw [show (3600 : ℝ) * tick = 2 * Real.pi by rw [half]; ring, Real.sin_two_pi_sub] at this
    rw [← abs_neg]
    ring_nf at this ⊢
    exact this

/-- The reference table as R176 gives it: `floor(2^30 sin(2 pi a / 3600) + 1/2)`. -/
theorem sineReference_floor (a : Nat) (v : Int) (h : sineReference[a]? = some v) :
    v = ⌊2 ^ 30 * Real.sin (2 * Real.pi * a / 3600) + 1 / 2⌋ := by
  have hv := abs_lt.mp (sineReference_rounded a v h)
  rw [eq_comm, Int.floor_eq_iff]
  constructor <;> linarith [hv.1, hv.2]

/-! ### The configurations -/

/-- The reference table meets R176 (e). -/
theorem a16_sineAccurate : Cfg.a16.SineAccurate := by
  intro a v h
  have := sineReference_rounded a v h
  rw [show ((Cfg.a16.T : Nat) : ℝ) = 3600 by norm_num [Cfg.a16]]
  linarith

/-- The configuration of the reset state is well formed. -/
theorem a16_wf : Cfg.a16.Wf :=
  ⟨by decide, by decide, by decide, by decide, by decide, by decide, by decide, by decide, by decide,
    by decide +kernel, a16_sineAccurate⟩

/-- Four ticks a revolution: the cardinal angles, where the sine is exact. -/
theorem cardinal_sineAccurate (cfg : Cfg) (hT : cfg.T = 4) (h : cfg.sinTab = [0, 2 ^ 30, 0, -(2 ^ 30)]) :
    cfg.SineAccurate := by
  intro a v hv
  rw [h] at hv
  have ha : a < 4 := (List.getElem?_eq_some_iff.mp hv).1
  have quarterTurn : Real.sin (Real.pi / 2) = 1 := Real.sin_pi_div_two
  have threeQuarters : Real.sin (Real.pi / 2 + Real.pi) = -1 := by rw [Real.sin_add_pi, quarterTurn]
  rw [hT]
  have cases : a = 0 ∨ a = 1 ∨ a = 2 ∨ a = 3 := by omega
  rcases cases with rfl | rfl | rfl | rfl <;> obtain rfl := Option.some.inj hv <;> push_cast
  · norm_num
  · rw [show 2 * Real.pi * 1 / 4 = Real.pi / 2 by ring, quarterTurn]
    norm_num
  · rw [show 2 * Real.pi * 2 / 4 = Real.pi by ring, Real.sin_pi]
    norm_num
  · rw [show 2 * Real.pi * 3 / 4 = Real.pi / 2 + Real.pi by ring, threeQuarters]
    norm_num

end Sys2Proof.Machine
end

