-- ==== Sys2Proof/Tests/Slice0.lean ====
section
/-!
SUPPORT. The model's own tests. Expected words and results are those of 30_encoding.md and
95_test_vectors.md (the vector is named in each comment), or hand calculation from the rules. The witnesses at
the end show, for each statement with hypotheses, a concrete state that meets them.
-/

namespace Sys2Proof.Tests

open Sys2Proof Sys2Proof.Machine Sys2Proof.Claims

/-! ### Well-formedness: one ill-formed term for each check (30_encoding.md R100) -/

theorem test_wellFormed_refuses_wide_registers :
    (Instr.csrRd 4096).wellFormed = false ∧ (Instr.csrWr 4096 0).wellFormed = false := by decide

theorem test_wellFormed_refuses_wide_pixels :
    (Instr.pxDist 4096 0).wellFormed = false ∧ (Instr.pxDist 0 4096).wellFormed = false ∧
    (Instr.pxRefl 4096 0).wellFormed = false ∧ (Instr.pxRefl 0 4096).wellFormed = false ∧
    (Instr.pxSig 4096 0).wellFormed = false ∧ (Instr.pxSig 0 4096).wellFormed = false ∧
    (Instr.pxNoise 4096 0).wellFormed = false ∧ (Instr.pxNoise 0 4096).wellFormed = false := by decide

theorem test_wellFormed_refuses_wide_columns :
    (Instr.colTs 4096).wellFormed = false ∧ (Instr.colMid 4096).wellFormed = false ∧
    (Instr.colFid 4096).wellFormed = false ∧ (Instr.colEnc 4096).wellFormed = false ∧
    (Instr.colValid 4096).wellFormed = false ∧ (Instr.colAzdeg 4096).wellFormed = false ∧
    (Instr.colAzrad 4096).wellFormed = false := by decide

theorem test_wellFormed_refuses_wide_models :
    (Instr.calBuiltin 4096).wellFormed = false ∧ (Instr.calGet .elev 4096).wellFormed = false := by decide

/-! ### Decoding: words written out from 30_encoding.md R101 and R104 -/

theorem test_decode_system :
    decode 0x00000000 = .ok .nop ∧ decode 0x01000000 = .ok .sysReset ∧ decode 0x02000000 = .ok .asmReset ∧
    decode 0x04002000 = .ok (.csrRd 2) ∧ decode 0x05000003 = .ok (.csrWr 0 3) := by decide

theorem test_decode_decoder :
    decode 0x10000000 = .ok .pktLoad ∧ decode 0x11002002 = .ok (.pxDist 2 2) ∧
    decode 0x12001000 = .ok (.pxRefl 1 0) ∧ decode 0x13000001 = .ok (.pxSig 0 1) ∧
    decode 0x14FFF00A = .ok (.pxNoise 4095 10) := by decide

theorem test_decode_columns :
    decode 0x18001000 = .ok (.colTs 1) ∧ decode 0x19001000 = .ok (.colMid 1) ∧ decode 0x1A001000 = .ok (.colFid 1) ∧
    decode 0x1B001000 = .ok (.colEnc 1) ∧ decode 0x1C001000 = .ok (.colValid 1) ∧
    decode 0x1D001000 = .ok (.colAzdeg 1) ∧ decode 0x1E001000 = .ok (.colAzrad 1) := by decide

theorem test_decode_calibration :
    decode 0x20000005 = .ok (.calBuiltin 5) ∧ decode 0x21000000 = .ok .calExt ∧
    decode 0x22000001 = .ok (.calGet .elev 1) ∧ decode 0x22001001 = .ok (.calGet .azoff 1) ∧
    decode 0x22002001 = .ok (.calGet .voff 1) ∧ decode 0x22003001 = .ok (.calGet .hoff 1) ∧
    decode 0x23000000 = .ok .calRes ∧ decode 0x24000000 = .ok .calNum := by decide

theorem test_decode_converter :
    decode 0x30000000 = .ok .cvtLast ∧ decode 0x31000000 = .ok .cvtStrongest ∧ decode 0x32000000 = .ok .cvtDual ∧
    decode 0x33000000 = .ok .cvtRuntime := by decide

theorem test_decode_assembler :
    decode 0x40000000 = .ok (.asmPush .pts) ∧ decode 0x40000001 = .ok (.asmPush .host) ∧
    decode 0x41000000 = .ok .proc := by decide

/-- V51 to V55, and a bit above each field of formats RA and M. -/
theorem test_decode_refuses :
    decode 0x03000000 = .reservedOpcode ∧ decode 0xFF000000 = .reservedOpcode ∧ decode 0x10000001 = .mustBeZero ∧
    decode 0x18000001 = .mustBeZero ∧ decode 0x22004000 = .mustBeZero ∧ decode 0x40000002 = .mustBeZero ∧
    decode 0x04000001 = .mustBeZero ∧ decode 0x20001000 = .mustBeZero := by decide

/-- The host's numbering of the bits, and what it places for the next step. -/
theorem test_tableWord_and_fetchWord :
    decodeTableWord 32 0x11002003 = some (.pxDist 2 3) ∧ decodeTableWord 32 0x03000000 = none ∧
    ((State.reset.withFetchWord 32 0x0400C000).cmds.map Command.word) = [0x0400C000] := by decide

/-! ### Small states -/

/-- The next state, if there is one. -/
def nextOf (o : Outcome) : Option State :=
  match o with
  | .next t => some t
  | .fault _ => none
  | .refused _ => none

theorem goes_of_nextOf (o : Outcome) (h : (nextOf o).isSome = true) : Goes o := by
  cases o with
  | next t => exact ⟨t, rfl⟩
  | fault f => simp [nextOf] at h
  | refused r => simp [nextOf] at h

/-- A property of the next state. -/
def holdsAfter (o : Outcome) (p : State → Bool) : Bool :=
  match nextOf o with
  | some t => p t
  | none => false

/-- The operation completed OK with this value in `RES`. -/
def gives (o : Outcome) (value : Nat) : Bool :=
  holdsAfter o fun t => decide (t.err = ErrRec.ok) && decide (t.res.toNat = value)

/-- The operation completed with this error: code, sub, info0, info1. -/
def raises (o : Outcome) (code sub expected actual : Nat) : Bool :=
  holdsAfter o fun t =>
    decide (t.err.code.toNat = code ∧ t.err.sub.toNat = sub ∧ t.err.info0.toNat = expected ∧ t.err.info1.toNat = actual)

/-- The model refuses the operation. -/
def refuses (o : Outcome) : Bool :=
  match o with
  | .next _ => false
  | .fault _ => false
  | .refused r => decide (r = .dualShapeOddColumns)

/-- Four ticks a revolution, so that every angle is cardinal (42_converter.md R176 (c)). -/
def quarter : Cfg where
  N := 2
  C := 2
  T := 4
  beamCount := 16
  calOrigin := 0
  calCap := 4096
  builtin := []
  revCap := none
  inqCap := none
  sinTab := [0, 2 ^ 30, 0, -(2 ^ 30)]

/-- Packet `P1` of 95_test_vectors.md section 2, with the low bytes of the two encoder counts as given. -/
def packet (a0 a1 b0 b1 : Byte) : List Byte :=
  [0x02, 0, 0, 0, 1, 0, 0, 0, 0x10, 0, 7, 0, a0, a1, 0, 0] ++
  ([0x64, 0, 0xC0, 0xAB, 2, 1, 4, 3, 6, 5, 0xFF, 0xFF, 0x40, 0x42, 0xFF, 0xFF] ++
  ([0x12, 0x11, 0x14, 0x13, 0x16, 0x15, 0, 0, 0xFF, 0xFF, 0xFF, 0xFF, 2, 0x80, 1, 0] ++
  ([1, 0, 0, 0, 0x11, 0, 7, 0, b0, b1, 0, 0, 0xE8, 3, 0, 0] ++
  ([0x22, 0x21, 0x24, 0x23, 0x26, 0x25, 0, 0, 0, 0, 0, 0, 0, 0, 0, 0] ++
   [0, 0, 0, 0, 0xFE, 0xFF, 0xFF, 0xFF]))))

/-- `P1`: encoder counts 900 and 1800. -/
def p1 : List Byte := packet 0x84 0x03 0x08 0x07

/-- `P1` with its angles, 90 and 180 degrees, in ticks of `quarter`. -/
def p1Quarter : List Byte := packet 1 0 2 0

/-- Table `K2` of 95_test_vectors.md section 3, its azimuth offset of -90 degrees as given. -/
def k2 (azoff : Int) : CalPayload where
  numLasers := 2
  distanceResolution := 0x00020000
  records :=
    [{ index := 0, elev := 0, azoff := 0, voff := 0, hoff := 0 },
     { index := 1, elev := 0, azoff := BitVec.ofInt 32 azoff, voff := 0x00018000, hoff := BitVec.ofInt 32 (-0x8000) }]

/-- A table of consecutive channels without corrections, `n` entries declared. -/
def plainTable (n : Nat) (declared : BitVec 32) (res : BitVec 32) : CalPayload where
  numLasers := declared
  distanceResolution := res
  records := (List.range n).map fun i => { index := BitVec.ofNat 32 i, elev := 0, azoff := 0, voff := 0, hoff := 0 }

/-- A state of `cfg` with a packet loaded. -/
def withPacket (cfg : Cfg) (bytes : List Byte) : State :=
  { State.resetOf cfg with pkt := Memory.ofBytes bytes, pktOk := true }

/-- A state with a table active. -/
def withTable (s : State) (tbl : CalPayload) : State := { s with cal := tableOfPayload tbl, calOk := true }

/-- A state with a table presented by the host. -/
def offering (s : State) (tbl : CalPayload) : State := { s with payload := { s.payload with tbl := tbl } }

/-- A state with a packet presented by the host. -/
def receiving (s : State) (bytes : List Byte) : State := { s with payload := { s.payload with rx := bytes } }

/-- `pt(az, ch)` of 95_test_vectors.md section 5. -/
def pt (az ch : Nat) : Point where
  x := 0
  y := 0
  z := 0
  refl := 0
  sig := 0
  noise := 0
  az := BitVec.ofNat 32 az
  ch := BitVec.ofNat 16 ch
  col := 0
  ts := 0
  valid := true
  ret := .last

/-- `col(az)` of 95_test_vectors.md section 5. -/
def column (az : Nat) : List Point := (List.range 16).map (pt az)

/-- `P1` loaded in TINY. -/
def loadedTiny : State := withPacket Cfg.tiny p1

/-- `P1` loaded and `K2` active in `quarter`. -/
def readyQuarter : State := withTable (withPacket quarter p1Quarter) (k2 (-1))

/-- An assembler that has passed the points of one column at azimuth `az`, the last of them channel `ch`. -/
def filling (az ch : Nat) : Asm :=
  { Asm.reset with
    colbuf := (List.range (ch + 1)).map (pt az)
    prevValid := true
    prevAz := BitVec.ofNat 32 az
    prevCh := BitVec.ofNat 16 ch }

/-- An assembler with one completed column and the first point of the next. -/
def oneColumn : Asm :=
  { Asm.reset with
    rev := [column 100]
    colbuf := [pt 200 0]
    prevValid := true
    prevAz := 200
    prevCh := 0
    colcnt := 1
    beamNum := 16 }

/-- An assembler stopped as V41 stops it. -/
def stoppedAsm : Asm :=
  { filling 200 9 with
    inq := [pt 300 0]
    fatal := true
    fatalErr := { code := 4, sub := 1, info0 := 16, info1 := 10 } }

/-- `s` with this assembler and these points presented by the host. -/
def feeding (s : State) (a : Asm) (points : List Point) : State :=
  { s with asm := a, payload := { s.payload with pts := points } }

/-! ### System operations -/

/-- 44_system.md R240: after an error, `ERRCODE = 0`. -/
theorem test_nop :
    gives (exec .nop { loadedTiny with err := { code := 6, sub := 1, info0 := 0, info1 := 0 }, res := 5 }) 5 = true := by
  decide

/-- 44_system.md R241: the packet, the table, the queue and the fatal condition are gone. -/
theorem test_sysReset :
    holdsAfter (exec .sysReset { readyQuarter with asm := stoppedAsm, retmode := 0x39 })
      (fun t => decide (statusWord t = 0 ∧ t.retmode = 0 ∧ t.asm = Asm.reset)) = true := by decide

/-- 95_test_vectors.md program 4 step 9. -/
theorem test_asmReset :
    holdsAfter (exec .asmReset { readyQuarter with asm := stoppedAsm })
      (fun t => decide (statusWord t = 3 ∧ leftCount t.cfg t.asm = 0)) = true := by decide

/-- `STATUS` after `PKT.LOAD` (44_system.md R243); `ERR` of the previous operation; V56. -/
theorem test_csrRd :
    gives (exec (.csrRd 2) loadedTiny) 1 = true ∧
    gives (exec (.csrRd 3) { loadedTiny with err := { code := 6, sub := 3, info0 := 0, info1 := 0 } }) 0x0306 = true ∧
    raises (exec (.csrRd 0x12) loadedTiny) 7 4 0x12 0x12 = true := by decide

/-- V58: only bits 2:0 of `CTRL` exist. V57: a read-only register. V56. -/
theorem test_csrWr :
    holdsAfter (exec (.csrWr 0 0xFFF) loadedTiny)
      (fun t => decide (ctrlWord t = 7 ∧ t.policy = .runtime ∧ t.dualsel = true)) = true ∧
    holdsAfter (exec (.csrWr 1 0x3A9) loadedTiny) (fun t => decide (t.retmode = 0xA9)) = true ∧
    holdsAfter (exec (.csrWr 2 0xFFF) loadedTiny) (fun t => decide (statusWord t = 1 ∧ t.err = ErrRec.ok)) = true ∧
    raises (exec (.csrWr 0x12 5) loadedTiny) 7 4 0x12 0x12 = true := by decide

/-! ### Decoder operations on `P1` in TINY -/

/-- V1 and V13b. -/
theorem test_pktLoad :
    holdsAfter (exec .pktLoad (receiving (State.resetOf Cfg.tiny) p1))
      (fun t => decide (t.pktOk = true ∧ Memory.readByte t.pkt 16 = 0x64 ∧ Memory.readByte t.pkt 87 = 0xFF)) = true ∧
    raises (exec .pktLoad (receiving loadedTiny (p1.take 87))) 1 0 88 87 = true := by decide

/-- V2, V3 and V13. -/
theorem test_pxDist :
    gives (exec (.pxDist 0 0) loadedTiny) 100 = true ∧ gives (exec (.pxDist 0 1) loadedTiny) 1000000 = true ∧
    raises (exec (.pxDist 2 2) loadedTiny) 7 1 2 2 = true ∧ raises (exec (.pxDist 0 2) loadedTiny) 7 2 2 2 = true := by
  decide

/-- V4 and V12. -/
theorem test_pxRefl :
    gives (exec (.pxRefl 0 0) loadedTiny) 0x0102 = true ∧ gives (exec (.pxRefl 1 0) loadedTiny) 0x2122 = true := by
  decide

/-- V4 and V12. -/
theorem test_pxSig :
    gives (exec (.pxSig 0 0) loadedTiny) 0x0304 = true ∧ gives (exec (.pxSig 1 0) loadedTiny) 0x2324 = true := by
  decide

/-- V4 and V12; before any packet, NotReady. -/
theorem test_pxNoise :
    gives (exec (.pxNoise 0 0) loadedTiny) 0x0506 = true ∧ gives (exec (.pxNoise 1 0) loadedTiny) 0x2526 = true ∧
    raises (exec (.pxNoise 0 0) (State.resetOf Cfg.tiny)) 6 1 0 0 = true := by decide

/-- V6. -/
theorem test_colTs :
    gives (exec (.colTs 0) loadedTiny) 4294967298 = true ∧ gives (exec (.colTs 1) loadedTiny) 4295065602 = true := by
  decide

/-- V7. -/
theorem test_colMid :
    gives (exec (.colMid 0) loadedTiny) 16 = true ∧ gives (exec (.colMid 1) loadedTiny) 17 = true := by decide

/-- V7. -/
theorem test_colFid :
    gives (exec (.colFid 1) loadedTiny) 7 = true ∧ raises (exec (.colFid 2) loadedTiny) 7 1 2 2 = true := by
  decide

/-- V7. -/
theorem test_colEnc :
    gives (exec (.colEnc 0) loadedTiny) 900 = true ∧ gives (exec (.colEnc 1) loadedTiny) 1800 = true := by
  decide

/-- V8 and V9. -/
theorem test_colValid :
    gives (exec (.colValid 0) loadedTiny) 1 = true ∧ gives (exec (.colValid 1) loadedTiny) 0 = true := by decide

/-- V10, and the scalar formula at t = 1 and t = 3600 (95_test_vectors.md section 2). -/
theorem test_colAzdeg :
    gives (exec (.colAzdeg 0) loadedTiny) 5898240 = true ∧ gives (exec (.colAzdeg 1) loadedTiny) 11796480 = true ∧
    azimuthDegrees Cfg.tiny 1 = 6553 ∧ azimuthDegrees Cfg.tiny 3600 = 23592960 := by decide

/-- V11, and the scalar formula at t = 1 and t = 3600 (95_test_vectors.md section 2). -/
theorem test_colAzrad :
    gives (exec (.colAzrad 0) loadedTiny) 421657428 = true ∧ gives (exec (.colAzrad 1) loadedTiny) 843314856 = true ∧
    azimuthRadians Cfg.tiny 1 = 468508 ∧ azimuthRadians Cfg.tiny 3600 = 1686629713 := by decide

/-! ### Calibration operations -/

/-- V59, and a model that exists. -/
theorem test_calBuiltin :
    raises (exec (.calBuiltin 0) loadedTiny) 7 3 0 0 = true ∧
    holdsAfter (exec (.calBuiltin 0) (State.resetOf { quarter with builtin := [tableOfPayload (k2 (-1))] }))
      (fun t => decide (t.calOk = true ∧ t.cal.num = 2 ∧ t.cal.res = 0x20000)) = true := by decide

/-- V14 and V19: index origin 1 stores the record of index 1 first. -/
theorem test_calExt_loads :
    holdsAfter (exec .calExt (offering loadedTiny (k2 (-900))))
      (fun t => decide (t.calOk = true ∧ t.cal.num = 2 ∧ t.cal.res = 0x20000)) = true ∧
    holdsAfter (exec .calExt (offering (State.resetOf { quarter with calOrigin := 1 })
        { k2 0 with records := (k2 0).records.map fun r => { r with index := r.index + 1 } }))
      (fun t => decide (t.cal.lasers.map Laser.voff = [0, 0x18000])) = true := by decide

/-- V15b, V16, V17 and V18. -/
theorem test_calExt_checks :
    raises (exec .calExt (offering loadedTiny (plainTable 2 2 0xFFFFFFFF))) 2 1 0 0xFFFFFFFF = true ∧
    raises (exec .calExt (offering loadedTiny (plainTable 15 16 0x10000))) 2 2 16 15 = true ∧
    raises (exec .calExt (offering loadedTiny
      { plainTable 15 16 0x10000 with
        records := (plainTable 15 16 0x10000).records ++
          [{ index := 14, elev := 0, azoff := 0, voff := 0, hoff := 0 }] })) 2 3 15 14 = true ∧
    raises (exec .calExt (offering loadedTiny { plainTable 2 3 0 with records := [] })) 2 1 0 0 = true := by
  decide

/-- V14: the fields of channel 1, sign-extended; V19c: past the table. -/
theorem test_calGet :
    gives (exec (.calGet .azoff 1) (withTable loadedTiny (k2 (-900)))) 0xFFFFFFFFFFFFFC7C = true ∧
    gives (exec (.calGet .voff 1) (withTable loadedTiny (k2 (-900)))) 0x18000 = true ∧
    gives (exec (.calGet .hoff 1) (withTable loadedTiny (k2 (-900)))) 0xFFFFFFFFFFFF8000 = true ∧
    raises (exec (.calGet .elev 2) (withTable loadedTiny (k2 (-900)))) 7 2 2 2 = true := by decide

/-- V14 and V19c. -/
theorem test_calRes :
    gives (exec .calRes (withTable loadedTiny (k2 (-900)))) 0x20000 = true ∧
    raises (exec .calRes loadedTiny) 6 2 0 0 = true := by decide

/-- V14. -/
theorem test_calNum :
    gives (exec .calNum (withTable loadedTiny (k2 (-900)))) 2 = true ∧ raises (exec .calNum loadedTiny) 6 2 0 0 = true := by
  decide

/-! ### Converter operations -/

/-- V24, V25, V29 on the cardinal angles, their ticks in `quarter`. -/
theorem test_project_cardinal :
    project quarter 65536000 1 0 0x18000 0x8000 = { x := -32768, y := -98304, z := 65536000 } ∧
    project quarter 65536000 (-1) 3 0x18000 0x8000 = { x := -98304, y := -32768, z := -65536000 } ∧
    project quarter 98307 0 2 1 (-1) = { x := -1, y := -98307, z := 1 } := by decide

/-- V26 and V27, the reference TRIG at a non-cardinal angle, floored on both sides of zero. -/
theorem test_project_reference :
    project Cfg.a16 65536000 0 300 0 0 = { x := 32768000, y := 56755840, z := 0 } ∧
    project Cfg.a16 65536000 0 2100 0 0 = { x := -32768000, y := -56755841, z := 0 } := by decide +kernel

/-- The x, y, z, channel, validity and return of the points of a result. -/
def summary (p : Point) : Int × Int × Int × Nat × Bool × Ret :=
  (p.x.toInt, p.y.toInt, p.z.toInt, p.ch.toNat, p.valid, p.ret)

/-- The converter result as summaries. -/
def summaries : Pts → List (Int × Int × Int × Nat × Bool × Ret)
  | .none => []
  | .single points => points.map summary
  | .dual pairs => pairs.flatMap fun q => [summary q.1, summary q.2]

/-- V20. -/
theorem test_cvtLast :
    holdsAfter (exec .cvtLast readyQuarter) (fun t => decide (summaries t.pts =
      [(13107200, 0, 0, 0, true, .last), (32768, 131072000000, 98304, 1, true, .last),
       (0, -131072000, 0, 0, false, .last), (0, -32768, 98304, 1, false, .last)])) = true := by decide

/-- V20 with ret = 1; V36 and V38. -/
theorem test_cvtStrongest :
    holdsAfter (exec .cvtStrongest readyQuarter) (fun t => decide (summaries t.pts =
      [(13107200, 0, 0, 0, true, .strongest), (32768, 131072000000, 98304, 1, true, .strongest),
       (0, -131072000, 0, 0, false, .strongest), (0, -32768, 98304, 1, false, .strongest)])) = true ∧
    raises (exec .cvtStrongest loadedTiny) 6 2 0 0 = true ∧
    raises (exec .cvtStrongest (withTable loadedTiny (plainTable 16 16 0x10000))) 5 0 2 16 = true := by decide

/-- V21; with C odd, refused. -/
theorem test_cvtDual :
    holdsAfter (exec .cvtDual readyQuarter) (fun t => decide (summaries t.pts =
      [(13107200, 0, 0, 0, true, .last), (0, -131072000, 0, 0, false, .strongest),
       (32768, 131072000000, 98304, 1, true, .last), (0, -32768, 98304, 1, false, .strongest)])) = true ∧
    refuses (exec .cvtDual { readyQuarter with cfg := { quarter with C := 1 } }) = true := by decide

/-- V32 to V35 and V39. -/
theorem test_cvtRuntime :
    holdsAfter (exec .cvtRuntime { readyQuarter with retmode := 0x37 })
      (fun t => decide ((summaries t.pts).map (fun v => v.2.2.2.2.2) = List.replicate 4 .strongest)) = true ∧
    holdsAfter (exec .cvtRuntime { readyQuarter with retmode := 0x38 })
      (fun t => decide ((summaries t.pts).map (fun v => v.2.2.2.2.2) = List.replicate 4 .last)) = true ∧
    holdsAfter (exec .cvtRuntime { readyQuarter with retmode := 0x39 }) (fun t => decide (statusWord t = 0x0B)) = true ∧
    raises (exec .cvtRuntime { readyQuarter with retmode := 0x3A }) 3 0 0 0x3A = true ∧
    raises (exec .cvtRuntime (withTable loadedTiny (plainTable 16 16 0x10000))) 3 0 0 0 = true := by decide

/-! ### Assembler operations -/

/-- V43, second push: one column completes and the azimuth drops at the same point; and V41. -/
theorem test_asmPush_host :
    holdsAfter (exec (.asmPush .host) (feeding (State.resetOf quarter) Asm.reset (column 3500 ++ [pt 100 0])))
      (fun t => decide (t.asm.frame.points = column 3500 ∧ t.asm.frame.height = 16 ∧ t.asm.frame.width = 1 ∧
        leftCount t.cfg t.asm = 1)) = true ∧
    raises (exec (.asmPush .host) (feeding (State.resetOf quarter) (filling 200 9) [pt 300 0])) 4 1 16 10 = true := by
  decide

/-- 43_assembler.md R219: `DUALSEL` selects the member fed; program 2 step 6: no converter result. -/
theorem test_asmPush_pts :
    holdsAfter (exec (.asmPush .pts)
        { State.resetOf quarter with pts := .dual [(pt 1 0, pt 2 0)], dualsel := true })
      (fun t => decide (t.asm.colbuf = [pt 2 0] ∧ t.pts = .none)) = true ∧
    raises (exec (.asmPush .pts) (State.resetOf quarter)) 6 3 0 0 = true := by decide

/-- Program 4 steps 2, 4 and 7: no table, a short packet, the latched error. -/
theorem test_proc_stops :
    holdsAfter (exec .proc (receiving (State.resetOf quarter) p1Quarter))
      (fun t => decide (t.err.code = 6 ∧ t.err.sub = 2 ∧ t.pktOk = true)) = true ∧
    raises (exec .proc (receiving readyQuarter (p1Quarter.take 87))) 1 0 88 87 = true ∧
    raises (exec .proc { readyQuarter with asm := stoppedAsm }) 4 1 16 10 = true := by decide

/-- A packet of two 2-channel columns: the second column's first point closes a column of 2 points, not 16
(43_assembler.md R230, last corner case). -/
theorem test_proc_runs :
    holdsAfter (exec .proc (receiving readyQuarter p1Quarter))
      (fun t => decide (t.err.code = 4 ∧ t.err.info1 = 2 ∧ t.asm.colbuf.length = 2 ∧ t.asm.inq.length = 2 ∧
        t.pts = .none)) = true := by decide

/-! ### Witnesses: for each statement with hypotheses, a state that meets them -/

/-- The hypothesis of `DecodeOfEncodeIsTheInstruction`, at the largest operand. -/
theorem witness_DecodeOfEncodeIsTheInstruction : (Instr.calGet .hoff 4095).wellFormed = true := by decide

/-- The hypothesis of `DecodedWordIsItsEncoding`, at the largest operands. -/
theorem witness_DecodedWordIsItsEncoding : decode 0x05FFFFFF = .ok (.csrWr 4095 0xFFF) := by decide

/-- The hypotheses of `DecodeAcceptsExactlyTheTable`: a word that matches a row. -/
theorem witness_DecodeAcceptsExactlyTheTable :
    ((0xFFFFC000, 0x22000000) : Word × Word) ∈ opcodeTable ∧ (0x22003FFF : Word) &&& 0xFFFFC000 = 0x22000000 := by
  decide

/-- The hypotheses of `StepRunsTheDecodedInstruction`, with and without an operation issued. -/
theorem witness_StepRunsTheDecodedInstruction :
    ((State.resetOf quarter).withFetchWord 32 0x04002000).cmds = { word := 0x04002000, payload := Payload.empty } :: [] ∧
    decode 0x04002000 = .ok (.csrRd 2) ∧ (Instr.csrRd 2).wellFormed = true ∧ (State.resetOf quarter).cmds = [] :=
  ⟨rfl, by decide, by decide, rfl⟩

/-- The hypotheses of `IllegalWordCompletesWithIllegalCommand`: a reserved opcode and a must-be-zero bit. -/
theorem witness_IllegalWordCompletesWithIllegalCommand :
    ((State.resetOf quarter).withFetchWord 32 0x03000000).cmds = { word := 0x03000000, payload := Payload.empty } :: [] ∧
    (∀ row ∈ opcodeTable, (0x03000000 : Word) &&& row.1 ≠ row.2) ∧
    (∀ row ∈ opcodeTable, (0x10000001 : Word) &&& row.1 ≠ row.2) :=
  ⟨rfl, by simp [opcodeTable], by simp [opcodeTable]⟩

/-- The hypotheses of the last clause of `AsmResetStartsANewStream`. -/
theorem witness_AsmResetStartsANewStream :
    stoppedAsm.fatal = true ∧
    holdsAfter (exec .asmReset { readyQuarter with asm := stoppedAsm }) (fun t => !t.asm.fatal) = true := by decide

/-- The hypotheses of `CsrReadGivesEveryRegister`: the first and the last register, and the first unassigned. -/
theorem witness_CsrReadGivesEveryRegister :
    4095 < 4096 ∧ 0x11 < 0x12 ∧ (registerFile readyQuarter)[0]? = some 0 ∧ (registerFile readyQuarter)[0x11]? = some 2 ∧
    2 < 2 ^ 32 := by decide

/-- The hypotheses of `CsrWriteReachesTwoRegisters`, at the ends of its ranges. -/
theorem witness_CsrWriteReachesTwoRegisters :
    4095 < 4096 ∧ policyCode .runtime = (0xFFF : BitVec 12).toNat % 4 ∧ policyCode .last = (0 : BitVec 12).toNat % 4 ∧
    2 ≤ 0x11 ∧ 0x11 < 0x12 := by decide

/-- The hypotheses of `PktLoadTakesExactlyOnePacket`: the length, one less, one more, and the last byte. -/
theorem witness_PktLoadTakesExactlyOnePacket :
    (receiving loadedTiny p1).payload.rx.length = Cfg.tiny.C * (20 + 12 * Cfg.tiny.N) ∧
    87 < (receiving loadedTiny p1).payload.rx.length ∧
    (receiving loadedTiny (p1.take 87)).payload.rx.length ≠ Cfg.tiny.C * (20 + 12 * Cfg.tiny.N) ∧
    (receiving loadedTiny (0 :: p1)).payload.rx.length ≠ Cfg.tiny.C * (20 + 12 * Cfg.tiny.N) := by decide

/-- The hypotheses of `PxDistGivesLowTwentyBits` and `PxIntensitiesGiveTheirFields`, clause by clause. -/
theorem witness_PixelReads :
    4095 < 4096 ∧ (State.resetOf Cfg.tiny).pktOk = false ∧ loadedTiny.pktOk = true ∧ loadedTiny.cfg.C ≤ 2 ∧
    1 < loadedTiny.cfg.C ∧ loadedTiny.cfg.N ≤ 2 ∧ 1 < loadedTiny.cfg.N := by decide

/-- The hypotheses of `ColumnHeaderReads` and `ColValidComparesTheMarker`, clause by clause. -/
theorem witness_ColumnReads :
    4095 < 4096 ∧ (State.resetOf Cfg.tiny).pktOk = false ∧ loadedTiny.pktOk = true ∧ loadedTiny.cfg.C ≤ 2 ∧
    1 < loadedTiny.cfg.C ∧ 0 < loadedTiny.cfg.C := by decide

/-- The hypotheses of `ColAzdegIsFloorOfDegrees` and `ColAzradIsFloorOfRadians`: t = 0, T/2, T and a rising pair. -/
theorem witness_Azimuths :
    let s := withPacket quarter (packet 0 0 2 0)
    let s' := withPacket quarter (packet 4 0 4 0)
    s.pktOk = true ∧ 1 < s.cfg.C ∧ 0 < s.cfg.T ∧ s.cfg.T % 4 = 0 ∧ word4 s (colStart s 0 + 12) = 0 ∧
    word4 s (colStart s 1 + 12) = s.cfg.T / 2 ∧ s'.pktOk = true ∧ word4 s' (colStart s' 1 + 12) = s'.cfg.T ∧
    word4 s (colStart s 0 + 12) ≤ word4 s (colStart s 1 + 12) := by decide

/-- One column of one pixel. -/
def smallest : Cfg := { quarter with N := 1, C := 1 }

/-- A packet of one pixel: the high bits of the distance word and the padding as given. -/
def smallPacket (nibble high pad : Byte) : List Byte :=
  [1, 0, 0, 0, 0, 0, 0, 0, 2, 0, 3, 0, 1, 0, 0, 0] ++
    [0x64, 0, nibble, high, 5, 0, 6, 0, 7, 0, pad, pad, 0xFF, 0xFF, 0xFF, 0xFF]

/-- The hypotheses of `ReservedBitsAndPaddingAreIgnored`: two packets that differ in every bit it speaks of; an
operation that completes, and one that is refused; the same of `PROC`. -/
theorem witness_ReservedBitsAndPaddingAreIgnored :
    SamePacket smallest (Memory.ofBytes (smallPacket 0x0A 0 0)) (Memory.ofBytes (smallPacket 0xFA 0xFF 0xFF)) ∧
    readsPacket (.pxDist 0 0) = true ∧ readsPacket .cvtDual = true ∧
    Goes (exec (.pxDist 0 0) (withPacket smallest (smallPacket 0x0A 0 0))) ∧
    refuses (exec .cvtDual (withTable (withPacket smallest (smallPacket 0x0A 0 0)) (plainTable 1 1 1))) = true ∧
    (smallPacket 0x0A 0 0).length = smallest.C * (20 + 12 * smallest.N) ∧
    (smallPacket 0xFA 0xFF 0xFF).length = smallest.C * (20 + 12 * smallest.N) ∧
    (State.resetOf smallest).asm.fatal = false ∧
    Goes (exec .proc (receiving (withTable (State.resetOf smallest) (plainTable 1 1 1)) (smallPacket 0x0A 0 0))) ∧
    refuses (exec .proc (receiving { withTable (State.resetOf smallest) (plainTable 1 1 1) with policy := .dual }
      (smallPacket 0x0A 0 0))) = true := by
  refine ⟨⟨fun a ha => ?_, fun c k hc hk => ?_⟩, by decide, by decide, goes_of_nextOf _ (by decide), by decide,
    by decide, by decide, by decide, goes_of_nextOf _ (by decide), by decide⟩
  · rw [readByte_ofBytes, readByte_ofBytes]
    have h := ha 0 0 (by decide) (by decide)
    have all : ∀ b, b < 32 → b ≠ 18 ∧ b ≠ 19 ∧ b ≠ 26 ∧ b ≠ 27 →
        (smallPacket 0x0A 0 0).getD b unlistedByte = (smallPacket 0xFA 0xFF 0xFF).getD b unlistedByte := by decide
    by_cases hlt : a < 32
    · exact all a hlt h
    · have past (bytes : List Byte) (hl : bytes.length = 32) : bytes.getD a unlistedByte = unlistedByte := by
        rw [List.getD_eq_getElem?_getD, List.getElem?_eq_none (by omega)]
        rfl
      rw [past _ rfl, past _ rfl]
  · have hc0 : c = 0 := by
      have : c < 1 := hc
      omega
    have hk0 : k = 0 := by
      have : k < 1 := hk
      omega
    subst hc0 hk0
    decide

/-- The hypotheses of `CalBuiltinMakesTheModelActive`: no model, and the last of one. -/
theorem witness_CalBuiltinMakesTheModelActive :
    4095 < 4096 ∧ quarter.builtin.length ≤ 0 ∧ 0 < [tableOfPayload (k2 (-1))].length := by decide

/-- The hypotheses of `CalExtChecksThenLoads`, clause by clause: resolution 0, counts that differ, a bad first and a
bad last index, one record past the capacity, and a full table. -/
theorem witness_CalExtChecksThenLoads :
    (plainTable 2 2 0).distanceResolution.toInt ≤ 0 ∧
    0 < (plainTable 2 3 1).distanceResolution.toInt ∧
    (plainTable 2 3 1).numLasers.toNat ≠ (plainTable 2 3 1).records.length ∧
    0 < (plainTable 3 3 1).distanceResolution.toInt ∧
    (plainTable 3 3 1).numLasers.toNat = (plainTable 3 3 1).records.length ∧
    (plainTable 3 3 1).records.map (fun r => r.index.toNat) = [0 + 0, 0 + 1, 0 + 2] ∧
    (plainTable 3 3 1).records.map (fun r => r.index.toNat) ≠ [1 + 0, 1 + 1, 1 + 2] ∧
    { quarter with calCap := 2 }.calCap < (plainTable 3 3 1).records.length ∧
    (plainTable 3 3 1).records.length ≤ { quarter with calCap := 3 }.calCap ∧
    { quarter with calCap := 3 }.calCap ≤ 4096 := by decide

/-- The hypotheses of `TableIsReplacedWholeOrKept`: a load that raises, and an operation that is no load. -/
theorem witness_TableIsReplacedWholeOrKept :
    holdsAfter (exec (.calBuiltin 0) readyQuarter) (fun t => decide (t.err.code ≠ 0)) = true ∧
    holdsAfter (exec .calExt (offering readyQuarter (plainTable 2 3 1))) (fun t => decide (t.err.code ≠ 0)) = true ∧
    Goes (exec .nop readyQuarter) := ⟨by decide, by decide, goes_of_nextOf _ (by decide)⟩

theorem quarter_wf : quarter.Wf :=
  ⟨by decide, by decide, by decide, by decide, by decide, by decide, by decide, by decide, by decide, by decide,
    cardinal_sineAccurate _ rfl rfl⟩

theorem smallest_wf : smallest.Wf :=
  ⟨by decide, by decide, by decide, by decide, by decide, by decide, by decide, by decide, by decide, by decide,
    cardinal_sineAccurate _ rfl rfl⟩

/-- The invariants of an assembler with one completed column. -/
theorem oneColumn_inv : oneColumn.Inv quarter where
  counted := by decide
  columnsFull := by decide
  columnsRise := by decide
  bufferRises := by decide
  previous _ := ⟨pt 200 0, rfl, rfl, rfl⟩
  fresh h := absurd h (by decide)
  beams c h := by
    obtain rfl : column 100 = c := Option.some.inj h
    exact ⟨pt 100 15, by decide, by decide⟩
  framed h := absurd h (by decide)
  unframed _ := rfl
  revFits := by decide
  inqFits := by decide
  healthy _ := rfl
  stopped h := absurd h (by decide)

/-- The invariants of an assembler whose column buffer holds one full column. -/
theorem fullColumn_inv : (filling 100 15).Inv quarter where
  counted := by decide
  columnsFull := by decide
  columnsRise := by decide
  bufferRises := by decide
  previous _ := ⟨pt 100 15, by decide, by decide, by decide⟩
  fresh h := absurd h (by decide)
  beams c h := absurd h (by simp [filling, Asm.reset])
  framed h := absurd h (by decide)
  unframed _ := rfl
  revFits := by decide
  inqFits := by decide
  healthy _ := rfl
  stopped h := absurd h (by decide)

/-- A state with a packet, a table, one completed column and `points` presented has the block's invariants. -/
theorem running_inv (points : List Point) : (feeding readyQuarter oneColumn points).Inv where
  configured := quarter_wf
  packetCanonical := by
    show Memory.Wf (Memory.ofBytes p1Quarter)
    exact ofBytes_wf _
  packetInside cell h := by
    have inside : cell.1 < p1Quarter.length := ofBytes_addresses p1Quarter cell h
    have length : p1Quarter.length = pktLen quarter := by decide
    show cell.1 < pktLen quarter
    rwa [← length]
  tableActive _ := by
    show (tableOfPayload (k2 (-1))).Wf quarter.calCap
    decide
  shaped := trivial
  assembler := oneColumn_inv

/-- The hypotheses of `CalAccessorsReadTheTable`, clause by clause, at the last channel and one past it. -/
theorem witness_CalAccessorsReadTheTable :
    4095 < 4096 ∧ loadedTiny.calOk = false ∧ readyQuarter.calOk = true ∧ readyQuarter.cal.num.toNat ≤ 2 ∧
    1 < readyQuarter.cal.num.toNat ∧
    readyQuarter.cal.lasers[1]? = some { elev := 0, azoff := -1, voff := 0x18000, hoff := -0x8000 } ∧
    (feeding readyQuarter oneColumn []).Inv ∧ (feeding readyQuarter oneColumn []).calOk = true :=
  ⟨by decide, by decide, by decide, by decide, by decide, by decide, running_inv [], by decide⟩

/-- The hypotheses of `ConversionChecksInOrder`, clause by clause. -/
theorem witness_ConversionChecksInOrder :
    Instr.cvtRuntime ∈ [Instr.cvtLast, .cvtStrongest, .cvtDual, .cvtRuntime] ∧
    (State.resetOf quarter).pktOk = false ∧ loadedTiny.pktOk = true ∧ loadedTiny.calOk = false ∧
    readyQuarter.pktOk = true ∧ readyQuarter.calOk = true ∧
    ¬(readyQuarter.retmode = 0x37 ∨ readyQuarter.retmode = 0x38 ∨ readyQuarter.retmode = 0x39) ∧
    (withTable loadedTiny (plainTable 1 1 1)).cal.num.toNat ≠ loadedTiny.cfg.N ∧
    (withTable (withPacket smallest (smallPacket 0 0 0)) (plainTable 1 1 1)).cal.num.toNat = smallest.N ∧
    smallest.C % 2 = 1 := by decide

/-- The hypotheses of `SingleConversionGivesEveryPoint` and of both clauses of `DualConversionPairsColumns`. -/
theorem witness_Ready :
    Ready readyQuarter ∧ readyQuarter.cfg.C % 2 = 0 ∧
    Ready (withTable (withPacket smallest (smallPacket 0 0 0)) (plainTable 1 1 1)) ∧ smallest.C % 2 = 1 := by
  refine ⟨⟨quarter_wf, ?_⟩, ?_, ⟨smallest_wf, ?_⟩, ?_⟩ <;> decide

/-- The hypotheses of `RuntimePolicyFollowsTheReturnMode`, clause by clause, with the bytes beside the known ones. -/
theorem witness_RuntimePolicyFollowsTheReturnMode :
    readyQuarter.pktOk = true ∧ readyQuarter.calOk = true ∧ readyQuarter.cal.num.toNat = readyQuarter.cfg.N ∧
    readyQuarter.cfg.C % 2 = 0 ∧ ((0x36 : BitVec 8) ≠ 0x37 ∧ (0x36 : BitVec 8) ≠ 0x38 ∧ (0x36 : BitVec 8) ≠ 0x39) ∧
    ((0x3A : BitVec 8) ≠ 0x37 ∧ (0x3A : BitVec 8) ≠ 0x38 ∧ (0x3A : BitVec 8) ≠ 0x39) ∧
    (State.resetOf quarter).pktOk = false ∧ loadedTiny.pktOk = true ∧ loadedTiny.calOk = false := by decide

/-- The hypotheses of `DatapathNeverOverflows`, at the largest distance and resolution. -/
theorem witness_DatapathNeverOverflows :
    quarter.Wf ∧ 2 ^ 20 - 1 < 2 ^ 20 ∧ 0 < (0x7FFFFFFF : BitVec 32).toInt := ⟨quarter_wf, by decide, by decide⟩

/-- `oneColumn` with points waiting. -/
def waitingColumn (points : List Point) : Asm := { oneColumn with inq := points }

/-- The invariants do not depend on what waits, in `quarter`, whose queue is unbounded. -/
theorem waitingColumn_inv (points : List Point) : (waitingColumn points).Inv quarter :=
  { oneColumn_inv with inqFits := fun _ h => absurd h (by simp [quarter]), stopped := fun h => absurd (show oneColumn.fatal = true from h) (by decide) }

/-- The hypotheses of `PointWithinAColumn`: equal channel and equal azimuth; and a drop of one tick. The point is
presented, or waits and is drained by an empty batch. -/
theorem witness_PointWithinAColumn :
    oneColumn.Inv quarter ∧ (waitingColumn [pt 199 0]).Inv quarter ∧ oneColumn.fatal = false ∧
    oneColumn.inq ++ [pt 200 0] = [pt 200 0] ∧ (waitingColumn [pt 199 0]).inq ++ [] = [pt 199 0] ∧
    WithinCap quarter.inqCap 1 ∧ oneColumn.prevCh.toNat ≤ (pt 200 0).ch.toNat ∧ ¬((pt 200 0).az.toNat < oneColumn.prevAz.toNat) ∧
    oneColumn.prevValid = true ∧ (pt 199 0).az.toNat < oneColumn.prevAz.toNat ∧ oneColumn.rev ≠ [] := by
  refine ⟨oneColumn_inv, waitingColumn_inv _, ?_⟩
  decide

/-- The hypotheses of `PointThatClosesAColumn`: the channel one lower, the azimuth equal and one lower. -/
theorem witness_PointThatClosesAColumn :
    (filling 100 15).Inv quarter ∧ (filling 100 15).fatal = false ∧
    (filling 100 15).inq ++ [pt 100 14] = [pt 100 14] ∧
    ({ filling 100 15 with inq := [pt 99 14] } : Asm).inq ++ [] = [pt 99 14] ∧ WithinCap quarter.inqCap 1 ∧ (filling 100 15).prevValid = true ∧
    (pt 100 14).ch.toNat < (filling 100 15).prevCh.toNat ∧ (filling 100 15).colbuf.length = quarter.beamCount ∧
    quarter.revCap ≠ some (filling 100 15).rev.length ∧ (filling 100 15).prevAz.toNat ≤ (pt 100 14).az.toNat ∧
    (pt 99 14).az.toNat < (filling 100 15).prevAz.toNat := by
  refine ⟨fullColumn_inv, ?_⟩
  decide

/-- The hypotheses of `BadColumnIsFatal`: a column one short, one long, and a full revolution buffer. -/
theorem witness_BadColumnIsFatal :
    (filling 100 14).fatal = false ∧ (filling 100 14).inq ++ [pt 100 13] = [pt 100 13] ∧
    ({ filling 100 14 with inq := [pt 100 13] } : Asm).inq ++ [] = [pt 100 13] ∧ WithinCap quarter.inqCap 1 ∧
    (filling 100 14).prevValid = true ∧ (pt 100 13).ch.toNat < (filling 100 14).prevCh.toNat ∧
    (filling 100 14).colbuf.length ≠ quarter.beamCount ∧ (filling 100 16).colbuf.length ≠ quarter.beamCount ∧
    (filling 100 15).colbuf.length = quarter.beamCount ∧
    { quarter with revCap := some 1 }.revCap = some 1 ∧ { filling 100 15 with rev := [column 0] }.rev.length = 1 := by
  decide

/-- The hypotheses of `FatalIsAbsorbing`, clause by clause. -/
theorem witness_FatalIsAbsorbing :
    stoppedAsm.fatal = true ∧ Goes (exec .nop { readyQuarter with asm := stoppedAsm }) ∧
    Instr.nop ≠ .asmReset ∧ Instr.nop ≠ .sysReset ∧ (filling 200 9).fatal = false ∧
    holdsAfter (exec (.asmPush .host) (feeding readyQuarter (filling 200 9) [pt 300 0])) (fun t => t.asm.fatal) = true :=
  ⟨by decide, goes_of_nextOf _ (by decide), by decide, by decide, by decide, by decide⟩

/-- The hypotheses of `PushTurnedAwayChangesNothing`: no result; one point more than the capacity, three ways. -/
theorem witness_PushTurnedAwayChangesNothing :
    (State.resetOf quarter).asm.fatal = false ∧ (State.resetOf quarter).pts = .none ∧
    { quarter with inqCap := some 4 }.inqCap = some 4 ∧
    4 < (Asm.reset).inq.length + ((column 0).take 5).length ∧ 4 < (Asm.reset).inq.length + [pt 0 0, pt 0 1, pt 0 2,
      pt 0 3, pt 0 4].length ∧ 4 < (Asm.reset).inq.length + (List.replicate 5 (pt 0 0, pt 0 0)).length := by decide

/-- The hypotheses of `PushOfTheConverterResult`, in its three cases, at the capacity. -/
theorem witness_PushOfTheConverterResult :
    oneColumn.fatal = false ∧ WithinCap (some 1) (oneColumn.inq.length + [pt 2 0].length) ∧
    { readyQuarter with pts := .single [pt 2 0] }.pts = .single [pt 2 0] ∧
    ({ readyQuarter with pts := .dual [(pt 2 0, pt 3 0)] }.dualsel = false ∧
      [pt 2 0] = [(pt 2 0, pt 3 0)].map Prod.fst) ∧
    ({ readyQuarter with pts := .dual [(pt 1 0, pt 2 0)], dualsel := true }.dualsel = true ∧
      [pt 2 0] = [(pt 1 0, pt 2 0)].map Prod.snd) := by decide

/-- The hypotheses of `OneFrameOrAnEmptyQueue`, without and with a frame. -/
theorem witness_OneFrameOrAnEmptyQueue :
    (feeding readyQuarter oneColumn [pt 200 1]).asm.Inv quarter ∧
    holdsAfter (exec (.asmPush .host) (feeding readyQuarter oneColumn [pt 200 1]))
      (fun t => decide (t.err.code = 0 ∧ t.output = .frame none)) = true ∧
    holdsAfter (exec (.asmPush .host) (feeding readyQuarter oneColumn [pt 199 1, pt 199 2]))
      (fun t => decide (t.err.code = 0 ∧ t.asm.inq = [pt 199 2])) = true :=
  ⟨oneColumn_inv, by decide, by decide⟩

/-- The hypotheses of `SplittingABatchChangesNothing`: a first call without a frame, and one with; two points waiting
and an empty batch. -/
theorem witness_SplittingABatchChangesNothing :
    oneColumn.fatal = false ∧ WithinCap quarter.inqCap (oneColumn.inq.length + 1 + 1) ∧
    holdsAfter (exec (.asmPush .host) (presenting (feeding readyQuarter oneColumn []) [pt 200 1]))
      (fun t => decide (t.err.code = 0 ∧ t.output = .frame none)) = true ∧
    holdsAfter (exec (.asmPush .host) (presenting (feeding readyQuarter oneColumn []) [pt 199 1]))
      (fun t => decide (t.err.code = 0 ∧ t.output = .frame (some t.asm.frame) ∧ t.asm.frame.points = column 100)) =
        true ∧
    WithinCap quarter.inqCap ([pt 200 1, pt 199 2].length + ([] : List Point).length) ∧
    holdsAfter (exec (.asmPush .host)
        (presenting { feeding readyQuarter oneColumn [] with asm := { oneColumn with inq := [] } }
          ([pt 200 1, pt 199 2] ++ []))) (fun t => decide (t.asm.frameValid = true)) = true := by decide

/-- The hypotheses of `NoPointIsDropped`: a push that emits, and one that ends in a fatal error. -/
theorem witness_NoPointIsDropped :
    oneColumn.Inv quarter ∧ oneColumn.fatal = false ∧ WithinCap quarter.inqCap (oneColumn.inq.length + 2) ∧
    Goes (exec (.asmPush .host) (feeding readyQuarter oneColumn [pt 199 1, pt 199 2])) ∧
    Goes (exec (.asmPush .host) (feeding readyQuarter oneColumn [pt 200 1, pt 200 0])) :=
  ⟨oneColumn_inv, by decide, by decide, goes_of_nextOf _ (by decide), goes_of_nextOf _ (by decide)⟩

/-- The hypotheses of `EmittedFrameGeometry`. -/
theorem witness_EmittedFrameGeometry :
    (feeding readyQuarter oneColumn [pt 199 1]).Inv ∧
    holdsAfter (exec (.asmPush .host) (feeding readyQuarter oneColumn [pt 199 1]))
      (fun t => decide (t.output = .frame (some t.asm.frame))) = true := ⟨running_inv _, by decide⟩

/-- The hypothesis of the last clause of `ColumnSortIsStable`, and a column that the sort changes. -/
theorem witness_ColumnSortIsStable :
    ChannelsRise [pt 1 0, pt 2 0, pt 3 1] ∧ sortByChannel [pt 1 1, pt 2 0, pt 3 1] = [pt 2 0, pt 1 1, pt 3 1] := by
  decide

/-- The hypothesis of `ValidityIsNotExamined`. -/
theorem witness_ValidityIsNotExamined :
    Goes (exec (.asmPush .host) (feeding readyQuarter oneColumn [pt 199 1])) := goes_of_nextOf _ (by decide)

/-- The hypotheses of `ProcIsTheThreeStages`, clause by clause. -/
theorem witness_ProcIsTheThreeStages :
    stoppedAsm.fatal = true ∧ readyQuarter.asm.fatal = false ∧
    holdsAfter (exec .pktLoad (receiving readyQuarter [])) (fun t => decide (t.err.code ≠ 0)) = true ∧
    holdsAfter (exec .pktLoad (receiving readyQuarter p1Quarter)) (fun t => decide (t.err.code = 0) &&
      holdsAfter (exec (conversionOf t.policy) t) (fun u => decide (u.err.code = 0))) = true ∧
    holdsAfter (exec .pktLoad (receiving (State.resetOf quarter) p1Quarter)) (fun t => decide (t.err.code = 0) &&
      holdsAfter (exec (conversionOf t.policy) t) (fun u => decide (u.err.code ≠ 0))) = true ∧
    holdsAfter (exec .pktLoad (receiving { withTable (State.resetOf smallest) (plainTable 1 1 1) with policy := .dual }
        (smallPacket 0 0 0))) (fun t => decide (t.err.code = 0) && refuses (exec (conversionOf t.policy) t)) = true := by
  decide

/-- Sixteen channels in `quarter`. -/
def sixteen : Cfg := { quarter with N := 16 }

/-- The start of a stream: a table of sixteen channels and a packet of zeros presented. -/
def firstPacket : State :=
  receiving (withTable (State.resetOf sixteen) (plainTable 16 16 0x10000)) (List.replicate 424 0)

/-- The hypotheses of `FirstPacketFillsColumns`. -/
theorem witness_FirstPacketFillsColumns :
    firstPacket.cfg.Wf ∧ firstPacket.cfg.N = firstPacket.cfg.beamCount ∧ firstPacket.policy = .last ∧
    firstPacket.calOk = true ∧ firstPacket.cal.num.toNat = firstPacket.cfg.N ∧
    firstPacket.payload.rx.length = firstPacket.cfg.C * (20 + 12 * firstPacket.cfg.N) ∧
    WithinCap (firstPacket.cfg.revCap.map (· + 1)) firstPacket.cfg.C ∧ firstPacket.asm = Asm.reset ∧
    payloadWord4 firstPacket (colStart firstPacket 0 + 12) ≤ payloadWord4 firstPacket (colStart firstPacket 1 + 12) := by
  refine ⟨⟨by decide, by decide, by decide, by decide, by decide, by decide, by decide, by decide, by decide, by decide,
    cardinal_sineAccurate _ rfl rfl⟩, by decide, by decide, by decide, by decide, ?_, by decide, by decide, by decide⟩
  show (List.replicate 424 (0 : Byte)).length = 424
  rw [List.length_replicate]

/-- The hypothesis of `InvariantHoldsAtReset`. -/
theorem witness_InvariantHoldsAtReset : quarter.Wf := quarter_wf

/-- The hypotheses of `EveryStepKeepsTheInvariant`, waiting and at work. -/
theorem witness_EveryStepKeepsTheInvariant :
    (feeding readyQuarter oneColumn []).Inv ∧ Goes (step (feeding readyQuarter oneColumn [])) ∧
    Goes (step ((feeding readyQuarter oneColumn []).withFetchWord 32 0x30000000)) :=
  ⟨running_inv [], goes_of_nextOf _ (by decide), goes_of_nextOf _ (by decide)⟩

/-- The hypothesis of `EveryOperationCompletes`. -/
theorem witness_EveryOperationCompletes : readyQuarter.cfg.C % 2 = 0 := by decide

/-- The hypotheses of `CompletionRegistersAreWritten`: a success and a failure. -/
theorem witness_CompletionRegistersAreWritten :
    (feeding readyQuarter oneColumn []).Inv ∧
    gives (exec (.pxDist 0 0) (feeding readyQuarter oneColumn [])) 100 = true ∧
    raises (exec (.pxDist 2 0) (feeding readyQuarter oneColumn [])) 7 1 2 2 = true :=
  ⟨running_inv [], by decide, by decide⟩

/-- The hypotheses of `OnlyScalarOperationsWriteRes`, clause by clause. -/
theorem witness_OnlyScalarOperationsWriteRes :
    isScalar (.csrRd 2) = true ∧ gives (exec (.csrRd 2) loadedTiny) 1 = true ∧
    raises (exec (.csrRd 0x12) loadedTiny) 7 4 0x12 0x12 = true ∧ isScalar .cvtLast = false ∧
    Instr.cvtLast ≠ .sysReset ∧ Goes (exec .cvtLast readyQuarter) :=
  ⟨by decide, by decide, by decide, by decide, by decide, goes_of_nextOf _ (by decide)⟩

/-- The hypotheses of `AssemblerIsChangedByFourOperations`, `PacketIsWrittenByLoadsOnly` and
`ControlAndResultFrames`. -/
theorem witness_frames :
    leavesAssembler .calRes = true ∧ Instr.calRes ≠ .pktLoad ∧ Instr.calRes ≠ .proc ∧ Instr.calRes ≠ .sysReset ∧
    (∀ r v, Instr.calRes ≠ .csrWr r v) ∧
    Instr.calRes ∉ [Instr.cvtLast, .cvtStrongest, .cvtDual, .cvtRuntime, .asmPush .pts, .proc, .sysReset] ∧
    Goes (exec .calRes readyQuarter) :=
  ⟨by decide, by decide, by decide, by decide, fun _ _ => by simp, by decide, goes_of_nextOf _ (by decide)⟩

/-- The hypothesis of `TrigMeetsItsRule`, with the reference table and with four ticks a revolution. -/
theorem witness_TrigMeetsItsRule : Cfg.a16.Wf ∧ quarter.Wf := ⟨a16_wf, quarter_wf⟩

end Sys2Proof.Tests
end

section
/-!
PROOFS. The state of the block (10_state.md): the reset table (R43) and the fatal condition (R38). The frame lemmas
say once which states an operation's rule can end in, so that a property of the next state is read off the state
that the rule wrote.
-/

namespace Sys2Proof.Machine

open Sys2Proof

/-! ### The state in which an operation's rule ends -/

/-- The state that the rule of an operation wrote, before the completion registers, meets `P`. -/
def Reply.EndsIn (P : State → Prop) : Reply → Prop
  | .complete s _ => P s
  | .raise s _ => P s
  | .fault _ => True
  | .refused _ => True

theorem complete_endsIn {P : State → Prop} {s : State} {out : Output} (h : P s) : (Reply.complete s out).EndsIn P := h

theorem raise_endsIn {P : State → Prop} {s : State} {e : ErrRec} (h : P s) : (Reply.raise s e).EndsIn P := h

theorem completeScalar_endsIn {P : State → Prop} {s : State} {v : BitVec 64} (hres : ∀ v, P { s with res := v }) :
    (completeScalar s v).EndsIn P := hres v

/-- The next state is the one the rule ended in, but for the completion registers and the output. -/
theorem finish_next_of_endsIn {P : State → Prop} {r : Reply} {t : State} (hr : r.EndsIn P) (h : finish r = .next t) :
    ∃ u, P u ∧ ((∃ out, t = u.completed out) ∨ ∃ e, t = u.raised e) := by
  rcases (finish_next_iff r t).mp h with ⟨u, out, rfl, rfl⟩ | ⟨u, e, rfl, rfl⟩
  · exact ⟨u, hr, .inl ⟨out, rfl⟩⟩
  · exact ⟨u, hr, .inr ⟨e, rfl⟩⟩

/-- The completion writes nothing of the assembler. -/
theorem asm_of_finish {r : Reply} {t : State} {a : Asm} (hr : r.EndsIn (·.asm = a)) (h : finish r = .next t) :
    t.asm = a := by
  obtain ⟨u, hu, ⟨out, rfl⟩ | ⟨e, rfl⟩⟩ := finish_next_of_endsIn hr h
  · rwa [completed_asm]
  · rwa [raised_asm]

/-- A check before a rule: both branches must end well. -/
theorem ite_endsIn {P : State → Prop} {c : Prop} [Decidable c] {r r' : Reply} (h : r.EndsIn P) (h' : r'.EndsIn P) :
    (if c then r else r').EndsIn P := by
  split
  · exact h
  · exact h'

/-- A field read writes `RES` and nothing else. -/
theorem readField_endsIn {P : State → Prop} (s : State) (addr width : Nat) (v : BitVec 64)
    (hres : ∀ v, P { s with res := v }) : (readField s addr width v).EndsIn P :=
  ite_endsIn (completeScalar_endsIn hres) trivial

/-- A `COL.*` operation writes `RES` and nothing else. -/
theorem columnOp_endsIn {P : State → Prop} (s : State) (c addr width : Nat) (v : BitVec 64) (hs : P s)
    (hres : ∀ v, P { s with res := v }) : (columnOp s c addr width v).EndsIn P :=
  ite_endsIn hs (ite_endsIn hs (readField_endsIn s addr width v hres))

/-- A `PX.*` operation writes `RES` and nothing else. -/
theorem pixelOp_endsIn {P : State → Prop} (s : State) (c k addr width : Nat) (v : BitVec 64) (hs : P s)
    (hres : ∀ v, P { s with res := v }) : (pixelOp s c k addr width v).EndsIn P :=
  ite_endsIn hs (ite_endsIn hs (ite_endsIn hs (readField_endsIn s addr width v hres)))

/-- A packet load writes the packet and its view and nothing else. -/
theorem loadPacket_endsIn {P : State → Prop} (rx : List Byte) (s : State)
    (hpkt : ∀ m ok, P { s with pkt := m, pktOk := ok }) : (loadPacket rx s).EndsIn P := by
  rcases loadPacket_cases rx s with ⟨-, h⟩ | ⟨-, h⟩ <;> rw [h]
  · exact hpkt _ _
  · exact hpkt s.pkt false

/-- A built-in load writes the active table and nothing else. -/
theorem loadBuiltin_endsIn {P : State → Prop} (m : Nat) (s : State) (hs : P s)
    (hcal : ∀ t, P { s with cal := t, calOk := true }) : (loadBuiltin m s).EndsIn P := by
  rcases loadBuiltin_cases m s with ⟨-, h⟩ | ⟨t, -, h⟩ <;> rw [h]
  · exact hs
  · exact hcal t

/-- An external load writes the active table and nothing else. -/
theorem loadExternal_endsIn {P : State → Prop} (tbl : CalPayload) (s : State) (hs : P s)
    (hcal : ∀ t, P { s with cal := t, calOk := true }) : (loadExternal tbl s).EndsIn P := by
  rcases loadExternal_cases tbl s with ⟨e, h⟩ | ⟨-, -, -, -, h⟩ <;> rw [h]
  · exact hs
  · exact hcal _

/-- A conversion writes the converter result and nothing else. -/
theorem convert_endsIn {P : State → Prop} (policy : Policy) (s : State) (hpts : ∀ p, P { s with pts := p }) :
    (convert policy s).EndsIn P := by
  rcases convert_cases policy s with ⟨e, h⟩ | ⟨-, h⟩ | ⟨p, -, -, -, -, h⟩ <;> rw [h]
  · exact hpts .none
  · trivial
  · exact hpts p

/-! ### The operations that leave the assembler -/

@[simp] theorem writeRegister_asm (s : State) (r : Nat) (v : BitVec 12) : (writeRegister s r v).asm = s.asm := by
  unfold writeRegister
  split <;> rfl

/-- Only the two feeders and the two resets may write the assembler. -/
theorem leavesAssembler_eq_false_iff (i : Instr) :
    leavesAssembler i = false ↔ i = .sysReset ∨ i = .asmReset ∨ (∃ src, i = .asmPush src) ∨ i = .proc := by
  cases i <;> simp [leavesAssembler]

/-- Every other operation leaves the assembler as it is, whatever its completion (43_assembler.md R224). -/
theorem exec_asm_of_leavesAssembler {i : Instr} {s t : State} (hi : leavesAssembler i = true)
    (h : exec i s = .next t) : t.asm = s.asm := by
  cases i with
  | sysReset | asmReset | asmPush src | proc => cases hi
  | nop => exact asm_of_finish (complete_endsIn (s := s) rfl) h
  | csrRd r => exact asm_of_finish (ite_endsIn (raise_endsIn rfl) (completeScalar_endsIn fun _ => rfl)) h
  | csrWr r v =>
    exact asm_of_finish (ite_endsIn (raise_endsIn rfl) (complete_endsIn (writeRegister_asm s r v))) h
  | pktLoad => exact asm_of_finish (loadPacket_endsIn _ s fun _ _ => rfl) h
  | pxDist c k | pxRefl c k | pxSig c k | pxNoise c k =>
    exact asm_of_finish (pixelOp_endsIn s c k _ _ _ rfl fun _ => rfl) h
  | colTs c | colMid c | colFid c | colEnc c | colValid c | colAzdeg c | colAzrad c =>
    exact asm_of_finish (columnOp_endsIn s c _ _ _ rfl fun _ => rfl) h
  | calBuiltin m => exact asm_of_finish (loadBuiltin_endsIn m s rfl fun _ => rfl) h
  | calExt => exact asm_of_finish (loadExternal_endsIn _ s rfl fun _ => rfl) h
  | calGet f k =>
    exact asm_of_finish
      (ite_endsIn (raise_endsIn rfl) (ite_endsIn (raise_endsIn rfl) (completeScalar_endsIn fun _ => rfl))) h
  | calRes | calNum => exact asm_of_finish (ite_endsIn (raise_endsIn rfl) (completeScalar_endsIn fun _ => rfl)) h
  | cvtLast | cvtStrongest | cvtDual | cvtRuntime => exact asm_of_finish (convert_endsIn _ s fun _ => rfl) h

/-- Both resets give the assembler its reset values (44_system.md R241, R242). -/
theorem exec_reset_asm {i : Instr} {s t : State} (hi : i = .sysReset ∨ i = .asmReset) (h : exec i s = .next t) :
    t.asm = Asm.reset := by
  rcases hi with rfl | rfl
  · exact asm_of_finish (complete_endsIn (s := s.systemReset) (systemReset_asm s)) h
  · exact asm_of_finish (complete_endsIn (s := s.assemblerReset) (assemblerReset_asm s)) h

/-! ### While FATAL is set -/

theorem exec_asmPush (src : PushSource) (s : State) : exec (.asmPush src) s = finish (pushPoints src s) := rfl

theorem exec_proc (s : State) : exec .proc s = finish (processPacket s.payload.rx s) := rfl

/-- A push repeats the latched error. -/
theorem pushPoints_of_fatal (src : PushSource) {s : State} (h : s.asm.fatal = true) :
    pushPoints src s = .raise s s.asm.fatalErr := if_pos h

/-- The pipeline repeats the latched error before its first stage. -/
theorem processPacket_of_fatal (rx : List Byte) {s : State} (h : s.asm.fatal = true) :
    processPacket rx s = .raise s s.asm.fatalErr := if_pos h

/-- Both feeders complete with the latched error and have no other effect. -/
theorem exec_feeder_of_fatal {i : Instr} {s : State} (hi : (∃ src, i = .asmPush src) ∨ i = .proc)
    (h : s.asm.fatal = true) : exec i s = .next (s.raised s.asm.fatalErr) := by
  rcases hi with ⟨src, rfl⟩ | rfl
  · rw [exec_asmPush, pushPoints_of_fatal src h, finish_raise]
  · rw [exec_proc, processPacket_of_fatal _ h, finish_raise]

/-! ### Where FATAL is set -/

/-- A rule that completes leaves FATAL clear, and one that raises with FATAL set has latched the error it raises
(43_assembler.md R224). -/
def Reply.LatchesItsError : Reply → Prop
  | .complete s _ => s.asm.fatal = false
  | .raise s e => s.asm.fatal = true → s.asm.fatalErr = e
  | .fault _ => True
  | .refused _ => True

/-- The latch is seen in the next state: it holds the completion registers' error. -/
theorem fatalErr_of_finish {r : Reply} {t : State} (hr : r.LatchesItsError) (h : finish r = .next t)
    (ht : t.asm.fatal = true) : t.asm.fatalErr = t.err := by
  rcases (finish_next_iff r t).mp h with ⟨u, out, rfl, rfl⟩ | ⟨u, e, rfl, rfl⟩
  · exact absurd ht (by simpa [Reply.LatchesItsError] using hr)
  · exact hr ht

/-- An error raised with FATAL clear latches nothing. -/
theorem raise_latchesItsError {s : State} (e : ErrRec) (h : s.asm.fatal = false) :
    (Reply.raise s e).LatchesItsError :=
  fun ht => absurd ht (by simp [h])

/-- RUN sets FATAL exactly when it raises, and latches what it raises. -/
theorem runQueue_latch (cfg : Cfg) (queue : List Point) (a : Asm) (h : a.fatal = false) :
    ((runQueue cfg queue a).raised = none ∧ (runQueue cfg queue a).asm.fatal = false) ∨
    ∃ e, (runQueue cfg queue a).raised = some e ∧ (runQueue cfg queue a).asm.fatal = true ∧
      (runQueue cfg queue a).asm.fatalErr = e := by
  have keep (a a' : Asm) (p : Point) (_ : a.frameValid = false) (ha : a.fatal = false)
      (hs : stepPoint cfg a p = .ok a') : a'.fatal = false := by
    obtain ⟨-, hfatal, -⟩ := stepPoint_keeps cfg a a' p hs
    rw [hfatal, ha]
  obtain ⟨b, left, hb, ⟨hr, -⟩ | ⟨e, p, -, -, -, hr⟩⟩ :=
    runQueue_induct cfg (·.fatal = false) keep queue a h
  · exact .inl (by rw [hr]; exact ⟨rfl, hb⟩)
  · exact .inr ⟨e, by rw [hr]; exact ⟨rfl, rfl, rfl⟩⟩

theorem runBatch_latchesItsError (batch : List Point) {s : State} (h : s.asm.fatal = false) :
    (runBatch batch s).LatchesItsError := by
  have latch := runQueue_latch s.cfg (s.asm.inq ++ batch) (clearFrame s.asm) h
  rcases runBatch_cases batch s with ⟨_, e, rfl, hraised, hrun⟩ | ⟨_, rfl, hraised, hrun⟩ <;>
    rw [hrun] <;> rw [hraised] at latch
  · obtain ⟨hn, -⟩ | ⟨e', he, -, herr⟩ := latch
    · cases hn
    · cases he
      exact fun _ => herr
  · obtain ⟨-, hfatal⟩ | ⟨e', he, -⟩ := latch
    · exact hfatal
    · cases he

theorem pushPoints_latchesItsError (src : PushSource) {s : State} (h : s.asm.fatal = false) :
    (pushPoints src s).LatchesItsError := by
  rcases pushPoints_cases src s with
    ⟨hf, -⟩ | ⟨-, -, -, hr⟩ | ⟨batch, s1, -, hs1, ⟨-, hr⟩ | ⟨-, hr⟩⟩
  · rw [h] at hf
    cases hf
  · rw [hr]
    exact raise_latchesItsError _ h
  · rw [hr]
    exact raise_latchesItsError _ h
  · have hasm : s1.asm = s.asm := by
      rcases hs1 with ⟨-, -, -, rfl⟩ | ⟨-, -, rfl⟩ <;> rfl
    rw [hr]
    exact runBatch_latchesItsError batch (hasm ▸ h)

/-- The first two stages of `PROC` leave the assembler, so its latch is that of the push. -/
theorem processPacket_latchesItsError (rx : List Byte) {s : State} (h : s.asm.fatal = false) :
    (processPacket rx s).LatchesItsError := by
  rcases processPacket_cases rx s with ⟨hf, -⟩ | ⟨-, -, hr⟩ | ⟨s1, -, -, rfl, hend⟩
  · rw [h] at hf
    cases hf
  · rw [hr]
    exact raise_latchesItsError _ h
  · have hconv := convert_endsIn (P := (·.asm.fatal = false)) s.policy
      { s with pkt := Memory.ofBytes rx, pktOk := true } fun _ => h
    rcases hend with ⟨s2, e, hc, hr⟩ | ⟨w, -, hr⟩ | ⟨s2, out, hc, hr⟩ <;> rw [hr]
    · rw [hc] at hconv
      exact raise_latchesItsError e hconv
    · trivial
    · rw [hc] at hconv
      exact pushPoints_latchesItsError .pts hconv

/-- An operation that sets FATAL latches the error it completes with: only the feeders can set it. -/
theorem fatalErr_of_exec {i : Instr} {s t : State} (h : exec i s = .next t) (hs : s.asm.fatal = false)
    (ht : t.asm.fatal = true) : t.asm.fatalErr = t.err := by
  cases hi : leavesAssembler i with
  | true =>
    rw [exec_asm_of_leavesAssembler hi h, hs] at ht
    cases ht
  | false =>
    have clear (hreset : t.asm = Asm.reset) : t.asm.fatalErr = t.err := by
      rw [hreset] at ht
      cases ht
    rcases (leavesAssembler_eq_false_iff i).mp hi with hi | hi | ⟨src, rfl⟩ | rfl
    · exact clear (exec_reset_asm (.inl hi) h)
    · exact clear (exec_reset_asm (.inr hi) h)
    · exact fatalErr_of_finish (pushPoints_latchesItsError src hs) h ht
    · exact fatalErr_of_finish (processPacket_latchesItsError _ hs) h ht

/-- While FATAL is set only a reset writes the assembler. -/
theorem exec_asm_of_fatal {i : Instr} {s t : State} (h : exec i s = .next t) (hf : s.asm.fatal = true)
    (hasm : i ≠ .asmReset) (hsys : i ≠ .sysReset) : t.asm = s.asm := by
  cases hi : leavesAssembler i with
  | true => exact exec_asm_of_leavesAssembler hi h
  | false =>
    rcases (leavesAssembler_eq_false_iff i).mp hi with hi | hi | hfeeder
    · exact absurd hi hsys
    · exact absurd hi hasm
    · rw [exec_feeder_of_fatal hfeeder hf] at h
      cases h
      exact raised_asm s _

end Sys2Proof.Machine

namespace Sys2Proof.Proofs

open Sys2Proof Sys2Proof.Machine Sys2Proof.Claims

/-- Power-on reset gives every value of the table, in any configuration. -/
theorem resetOf_atReset (cfg : Cfg) : AtReset (State.resetOf cfg) := by
  unfold AtReset
  and_intros <;> rfl

/-- Settles O9: the reset state is `State.resetOf` of the reference configuration. -/
theorem powerOnResetValues : Obligations.PowerOnResetValues :=
  ⟨resetOf_atReset Cfg.a16, resetOf_atReset⟩

/-- Settles O33: the feeders by their guard, the other operations by their frame, the latch by RUN. -/
theorem fatalIsAbsorbing : Obligations.FatalIsAbsorbing :=
  ⟨fun _ _ hf hi => exec_feeder_of_fatal hi hf,
    fun _ _ _ h hf hasm hsys => exec_asm_of_fatal h hf hasm hsys,
    fun _ _ _ h hs ht => fatalErr_of_exec h hs ht⟩

end Sys2Proof.Proofs
end

section
/-!
PROOFS. The Packet Layout Decoder (40_decoder.md): a field read is a command word, the checks of R121 and a number of
bytes. The first part says how words, bytes and errors of the statements are those of the model; the second says the
rule of a `PX.*` and of a `COL.*` operation once, for every field; the third settles the statements.
-/

namespace Sys2Proof.Machine

open Sys2Proof

/-! ### Command words of the formats CK and CC (30_encoding.md R100) -/

/-- The sum of the three shifted fields is the word packed from them. -/
theorem ofNat_fields_eq_packWord {op a b : Nat} (ha : a < 4096) (hb : b < 4096) :
    BitVec.ofNat 32 (op * 2 ^ 24 + a * 2 ^ 12 + b) =
      packWord (BitVec.ofNat 8 op) (BitVec.ofNat 12 a) (BitVec.ofNat 12 b) := by
  apply BitVec.eq_of_toNat_eq
  simp only [packWord, BitVec.toNat_append]
  rw [← Nat.shiftLeft_add_eq_or_of_lt (BitVec.isLt _), ← Nat.shiftLeft_add_eq_or_of_lt (BitVec.isLt _)]
  simp only [BitVec.toNat_ofNat, Nat.shiftLeft_eq]
  omega

/-- The decoder's opcode of a packed word. -/
theorem toNat_opBits_packWord {op : Nat} (hop : op < 256) (a b : BitVec 12) :
    (opBits (packWord (BitVec.ofNat 8 op) a b)).toNat = op := by
  rw [opBits_packWord, BitVec.toNat_ofNat, Nat.mod_eq_of_lt hop]

/-- A word of format CK gives both indexes. -/
theorem formatCK_packWord {op : BitVec 8} {c k : Nat} (i : Nat → Nat → Instr) (hc : c < 4096) (hk : k < 4096) :
    formatCK (packWord op (BitVec.ofNat 12 c) (BitVec.ofNat 12 k)) i = .ok (i c k) := by
  rw [formatCK, aBits_packWord, bBits_packWord, BitVec.toNat_ofNat, BitVec.toNat_ofNat, Nat.mod_eq_of_lt hc,
    Nat.mod_eq_of_lt hk]

/-- A word of format CC with `b = 0` gives the column index. -/
theorem formatA_packWord {op : BitVec 8} {c : Nat} (i : Nat → Instr) (hc : c < 4096) :
    formatA (packWord op (BitVec.ofNat 12 c) 0) i = .ok (i c) := by
  rw [formatA, if_pos (bBits_packWord _ _ _), aBits_packWord, BitVec.toNat_ofNat, Nat.mod_eq_of_lt hc]

/-! ### MemRead (20_memory.md R62) -/

/-- Little-endian: the bytes past the first `n` weigh `256 ^ n`. -/
theorem memRead_add (m : Memory) (addr n k : Nat) :
    memRead m addr (n + k) = memRead m addr n + 256 ^ n * memRead m (addr + n) k := by
  induction n generalizing addr with
  | zero => simp [memRead]
  | succ n ih =>
    rw [Nat.add_right_comm n 1 k, memRead, memRead, ih, Nat.pow_succ', Nat.add_right_comm addr 1 n]
    ring_nf

/-- A field register of `8 n` bits holds what MemRead of `n` bytes gives. -/
theorem toNat_ofNat_memRead {w n : Nat} (m : Memory) (addr : Nat) (hw : 256 ^ n = 2 ^ w) :
    (BitVec.ofNat w (memRead m addr n)).toNat = memRead m addr n := by
  rw [BitVec.toNat_ofNat, Nat.mod_eq_of_lt (hw ▸ memRead_lt m addr n)]

/-- The encoder count lies inside its column, for the three operations that read it. -/
theorem encOff_inside (cfg : Cfg) (c : Nat) : encOff cfg c + 4 ≤ colBase cfg c + colLen cfg := by
  simp only [encOff, colLen]
  omega

/-! ### The azimuth formulas (40_decoder.md R135, R136) -/

/-- Both formulas are `floor(t * unit / T)`, which never falls in `t`. -/
theorem scaledTicks_mono {t t' : Nat} (unit T : Nat) (h : t ≤ t') : t * unit / T ≤ t' * unit / T :=
  Nat.div_le_div_right (Nat.mul_le_mul_right unit h)

/-- Half a revolution is 180 degrees, since T is even. -/
theorem degrees_half {T : Nat} (hT : 0 < T) (h4 : T % 4 = 0) : T / 2 * 360 * 65536 / T = 11796480 :=
  Nat.div_eq_of_eq_mul_left hT (by omega)

/-- `RES` holds the quotient of a product that fits it, whatever the divisor. -/
theorem toNat_ofNat_div {x T : Nat} (hx : x < 2 ^ 64) : (BitVec.ofNat 64 (x / T)).toNat = x / T := by
  rw [BitVec.toNat_ofNat, Nat.mod_eq_of_lt ((Nat.div_le_self x T).trans_lt hx)]

/-- `TWO_PI_Q28` is below `2 * pi * 2^28` by less than a fifteenth. -/
theorem twoPi_enclosed : 1686629713 < 2 * Real.pi * 2 ^ 28 ∧ 2 * Real.pi * 2 ^ 28 < 1686629713 + 1 / 15 := by
  have hlo := Real.pi_gt_d20
  have hhi := Real.pi_lt_d20
  constructor <;> linarith

/-- The floor loses less than one unit, and `TWO_PI_Q28` less than a fifteenth of a unit in each revolution. -/
theorem radians_near (t : Nat) {T : Nat} (hT : 0 < T) :
    |((t * 1686629713 / T : Nat) : ℝ) - 2 * Real.pi * t / T * 2 ^ 28| < 1 + (t : ℝ) / (15 * T) := by
  obtain ⟨hlo, hhi⟩ := twoPi_enclosed
  have hturns : (0 : ℝ) ≤ t / T := by positivity
  have hquot : ((t * 1686629713 : Nat) : ℝ) / T = t / T * 1686629713 := by push_cast; ring
  have hfloor : ((t * 1686629713 / T : Nat) : ℝ) ≤ t / T * 1686629713 := hquot ▸ Nat.cast_div_le
  have hceil : (t : ℝ) / T * 1686629713 < (t * 1686629713 / T : Nat) + 1 := by
    rw [← hquot, ← Nat.floor_div_eq_div (K := ℝ)]
    exact Nat.lt_floor_add_one _
  have hangle : 2 * Real.pi * t / T * 2 ^ 28 = t / T * (2 * Real.pi * 2 ^ 28) := by ring
  have hbound : (t : ℝ) / (15 * T) = t / T * (1 / 15) := by field_simp
  have hge := mul_le_mul_of_nonneg_left hlo.le hturns
  have hle := mul_le_mul_of_nonneg_left hhi.le hturns
  rw [hangle, hbound, abs_lt]
  constructor <;> linarith

end Sys2Proof.Machine

namespace Sys2Proof.Proofs

open Sys2Proof Sys2Proof.Machine Sys2Proof.Claims

/-! ### The words of the packet -/

theorem memRead_two (s : State) (a : Nat) : memRead s.pkt a 2 = word2 s a := rfl

theorem memRead_four (s : State) (a : Nat) : memRead s.pkt a 4 = word4 s a := memRead_add s.pkt a 2 2

theorem memRead_eight (s : State) (a : Nat) : memRead s.pkt a 8 = word8 s a := by
  rw [memRead_add s.pkt a 4 4, memRead_four, memRead_four]
  rfl

theorem word4_lt (s : State) (a : Nat) : word4 s a < 2 ^ 32 := memRead_four s a ▸ memRead_lt s.pkt a 4

/-- The product of R135 is below `2^57`. -/
theorem degrees_product_lt (s : State) (a : Nat) : word4 s a * 360 * 65536 < 2 ^ 57 := by
  have := word4_lt s a
  omega

/-- The product of R136 is below `2^63`. -/
theorem radians_product_lt (s : State) (a : Nat) : word4 s a * 1686629713 < 2 ^ 63 := by
  have := word4_lt s a
  omega

/-- A two-byte field as `RES` shows it. -/
theorem toNat_field2 (s : State) (a : Nat) :
    ((BitVec.ofNat 16 (memRead s.pkt a 2)).setWidth 64).toNat = word2 s a := by
  rw [BitVec.toNat_setWidth_of_le (by decide), toNat_ofNat_memRead _ _ (by decide), memRead_two]

/-- The timestamp fills `RES`. -/
theorem toNat_columnTs (s : State) (c : Nat) : (columnTs s.cfg s.pkt c).toNat = word8 s (colStart s c) := by
  rw [columnTs, toNat_ofNat_memRead _ _ (by decide), memRead_eight]
  rfl

/-- The encoder count of a column is the word at offset 12. -/
theorem toNat_columnEnc (s : State) (c : Nat) :
    (columnEnc s.cfg s.pkt c).toNat = word4 s (colStart s c + 12) := by
  rw [columnEnc, toNat_ofNat_memRead _ _ (by decide), memRead_four]
  rfl

/-- The mask of R123 is the remainder modulo `2^20`. -/
theorem toNat_pixelDist (s : State) (c k : Nat) :
    ((pixelDist s.cfg s.pkt c k).setWidth 64).toNat = word4 s (pxStart s c k) % 2 ^ 20 := by
  rw [BitVec.toNat_setWidth_of_le (by decide), pixelDist, BitVec.toNat_and, toNat_ofNat_memRead _ _ (by decide),
    memRead_four]
  exact Nat.and_two_pow_sub_one_eq_mod _ 20

theorem toNat_boolRes (s : State) (c : Nat) :
    (boolRes (columnValid s.cfg s.pkt c)).toNat =
      if word4 s (colStart s c + 16 + 12 * s.cfg.N) = 0xFFFFFFFF then 1 else 0 := by
  have hmark : columnValid s.cfg s.pkt c = decide (word4 s (colStart s c + 16 + 12 * s.cfg.N) = 0xFFFFFFFF) := by
    rw [columnValid, memRead_four]
    rfl
  by_cases h : word4 s (colStart s c + 16 + 12 * s.cfg.N) = 0xFFFFFFFF <;> simp [hmark, boolRes, h]

/-! ### The rule of a field read -/

/-- The words of an error are those of its kind (60_exceptions.md R263). -/
theorem finish_raise_mkErr (s : State) (kind : ErrKind) (sub expected actual : Nat) :
    finish (.raise s (mkErr kind sub expected actual)) =
      failsWith s (errCode kind) (BitVec.ofNat 8 sub) expected actual := rfl

theorem scalarResult_completeScalar (s : State) (v : BitVec 64) :
    scalarResult (finish (completeScalar s v)) s v.toNat := ⟨v, rfl, rfl⟩

/-- A row of format CK whose operation reads a field of its pixel meets the whole rule of a `PX.*` operation. -/
theorem pixelReads_of_field {op width : Nat} {i : Nat → Nat → Instr} {addr : Cfg → Nat → Nat → Nat}
    {field : State → Nat → Nat → BitVec 64} {value : State → Nat → Nat → Nat} (hop : op < 256)
    (hrow : ∀ w, (opBits w).toNat = op → decode w = formatCK w i)
    (hexec : ∀ s c k, exec (i c k) s = finish (pixelOp s c k (addr s.cfg c k) width (field s c k)))
    (hinside : ∀ cfg c k, addr cfg c k + width ≤ pxBase cfg c k + 12)
    (hvalue : ∀ s c k, (field s c k).toNat = value s c k) : PixelReads op i value := by
  refine ⟨fun c k hc hk => ?_, fun s c k => ?_⟩
  · rw [ofNat_fields_eq_packWord hc hk, hrow _ (toNat_opBits_packWord hop _ _), formatCK_packWord i hc hk]
  · rcases pixelOp_cases s c k _ width (field s c k) (hinside s.cfg c k) with
      ⟨hp, h⟩ | ⟨hp, hc, h⟩ | ⟨hp, hc, hk, h⟩ | ⟨hp, hc, hk, h⟩ <;> rw [hexec, h]
    · exact ⟨fun _ => finish_raise_mkErr s .notReady 1 0 0, by simp [hp], by simp [hp], by simp [hp]⟩
    · exact ⟨by simp [hp], fun _ _ => finish_raise_mkErr s .indexOutOfRange 1 s.cfg.C c, fun _ _ => by omega,
        fun _ _ => by omega⟩
    · exact ⟨by simp [hp], fun _ _ => by omega, fun _ _ _ => finish_raise_mkErr s .indexOutOfRange 2 s.cfg.N k,
        fun _ _ _ => by omega⟩
    · exact ⟨by simp [hp], fun _ _ => by omega, fun _ _ _ => by omega,
        fun _ _ _ => hvalue s c k ▸ scalarResult_completeScalar s _⟩

/-- A row of format CC whose operation reads a field of its column meets the whole rule of a `COL.*` operation. -/
theorem columnReads_of_field {op width : Nat} {i : Nat → Instr} {addr : Cfg → Nat → Nat}
    {field : State → Nat → BitVec 64} {value : State → Nat → Nat} (hop : op < 256)
    (hrow : ∀ w, (opBits w).toNat = op → decode w = formatA w i)
    (hexec : ∀ s c, exec (i c) s = finish (columnOp s c (addr s.cfg c) width (field s c)))
    (hinside : ∀ cfg c, addr cfg c + width ≤ colBase cfg c + colLen cfg)
    (hvalue : ∀ s c, (field s c).toNat = value s c) : ColumnReads op i value := by
  refine ⟨fun c hc => ?_, fun s c => ?_⟩
  · have hword := ofNat_fields_eq_packWord (op := op) hc (b := 0) (by decide)
    rw [Nat.add_zero] at hword
    rw [hword, hrow _ (toNat_opBits_packWord hop _ _)]
    exact formatA_packWord i hc
  · rcases columnOp_cases s c _ width (field s c) (hinside s.cfg c) with
      ⟨hp, h⟩ | ⟨hp, hc, h⟩ | ⟨hp, hc, h⟩ <;> rw [hexec, h]
    · exact ⟨fun _ => finish_raise_mkErr s .notReady 1 0 0, by simp [hp], by simp [hp]⟩
    · exact ⟨by simp [hp], fun _ _ => finish_raise_mkErr s .indexOutOfRange 1 s.cfg.C c, fun _ _ => by omega⟩
    · exact ⟨by simp [hp], fun _ _ => by omega, fun _ _ => hvalue s c ▸ scalarResult_completeScalar s _⟩

/-- An operation that reads columns gives its value once the checks pass. -/
theorem scalarResult_of_columnReads {op : Nat} {i : Nat → Instr} {value : State → Nat → Nat} {s : State}
    {c n : Nat} (h : ColumnReads op i value) (hp : s.pktOk = true) (hc : c < s.cfg.C)
    (hn : value s c = n) : scalarResult (exec (i c) s) s n := by
  obtain ⟨-, -, hresult⟩ := h.2 s c
  exact hn ▸ hresult hp hc

/-! ### The statements -/

/-- A load of one whole packet makes it the packet view. -/
theorem exec_pktLoad_of_length {s : State} (h : s.payload.rx.length = pktLen s.cfg) :
    exec .pktLoad s = completesOk { s with pkt := Memory.ofBytes s.payload.rx, pktOk := true } .none :=
  congrArg finish (if_pos h)

/-- A load of any other length leaves no packet view. -/
theorem exec_pktLoad_of_length_ne {s : State} (h : s.payload.rx.length ≠ pktLen s.cfg) :
    exec .pktLoad s = failsWith { s with pktOk := false } 1 0 (pktLen s.cfg) s.payload.rx.length :=
  congrArg finish (if_neg h)

/-- Settles O13: the bytes read back by the laws of the packet byte space. -/
theorem pktLoadTakesExactlyOnePacket : Obligations.PktLoadTakesExactlyOnePacket := by
  refine ⟨by decide, fun s => ⟨fun h => ?_, fun h => exec_pktLoad_of_length_ne h⟩⟩
  refine ⟨Memory.ofBytes s.payload.rx, exec_pktLoad_of_length h, ofBytes_wf _, fun a ha => ?_⟩
  rw [readByte_ofBytes, List.getD_eq_getElem _ _ ha]

/-- Settles O14: the distance word is the first field of its pixel. -/
theorem pxDistGivesLowTwentyBits : Obligations.PxDistGivesLowTwentyBits :=
  pixelReads_of_field (addr := distOff) (by decide) (fun w h => by simp only [decode, h]) (fun _ _ _ => rfl)
    (fun _ _ _ => by simp only [distOff]; omega) toNat_pixelDist

/-- Settles O15: three two-byte fields behind the distance word. -/
theorem pxIntensitiesGiveTheirFields : Obligations.PxIntensitiesGiveTheirFields :=
  ⟨pixelReads_of_field (addr := reflOff) (by decide) (fun w h => by simp only [decode, h]) (fun _ _ _ => rfl)
      (fun _ _ _ => by simp only [reflOff]; omega) (fun s _ _ => toNat_field2 s _),
    pixelReads_of_field (addr := sigOff) (by decide) (fun w h => by simp only [decode, h]) (fun _ _ _ => rfl)
      (fun _ _ _ => by simp only [sigOff]; omega) (fun s _ _ => toNat_field2 s _),
    pixelReads_of_field (addr := noiseOff) (by decide) (fun w h => by simp only [decode, h]) (fun _ _ _ => rfl)
      (fun _ _ _ => by simp only [noiseOff]; omega) (fun s _ _ => toNat_field2 s _)⟩

/-- Settles O16: the four fields of a column header. -/
theorem columnHeaderReads : Obligations.ColumnHeaderReads :=
  ⟨columnReads_of_field (addr := tsOff) (by decide) (fun w h => by simp only [decode, h]) (fun _ _ => rfl)
      (fun _ _ => by simp only [tsOff, colLen]; omega) toNat_columnTs,
    columnReads_of_field (addr := midOff) (by decide) (fun w h => by simp only [decode, h]) (fun _ _ => rfl)
      (fun _ _ => by simp only [midOff, colLen]; omega) (fun s _ => toNat_field2 s _),
    columnReads_of_field (addr := fidOff) (by decide) (fun w h => by simp only [decode, h]) (fun _ _ => rfl)
      (fun _ _ => by simp only [fidOff, colLen]; omega) (fun s _ => toNat_field2 s _),
    columnReads_of_field (addr := encOff) (by decide) (fun w h => by simp only [decode, h]) (fun _ _ => rfl)
      encOff_inside (fun s c => (BitVec.toNat_setWidth_of_le (by decide)).trans (toNat_columnEnc s c))⟩

/-- Settles O17: the marker is the last field of its column. -/
theorem colValidComparesTheMarker : Obligations.ColValidComparesTheMarker :=
  columnReads_of_field (addr := markOff) (by decide) (fun w h => by simp only [decode, h]) (fun _ _ => rfl)
    (fun _ _ => by simp only [markOff, colLen]; omega) toNat_boolRes

/-- The angle in degrees is read as a field of the column: R121, then the formula of R135. -/
theorem colAzdeg_reads :
    ColumnReads 0x1D .colAzdeg (fun s c => word4 s (colStart s c + 12) * 360 * 65536 / s.cfg.T) :=
  columnReads_of_field (addr := encOff) (by decide) (fun w h => by simp only [decode, h]) (fun _ _ => rfl)
    encOff_inside fun s c => by
      rw [azimuthDegrees, toNat_columnEnc, toNat_ofNat_div ((degrees_product_lt s _).trans (by decide))]

/-- The angle in radians is read as a field of the column: R121, then the formula of R136. -/
theorem colAzrad_reads :
    ColumnReads 0x1E .colAzrad (fun s c => word4 s (colStart s c + 12) * 1686629713 / s.cfg.T) :=
  columnReads_of_field (addr := encOff) (by decide) (fun w h => by simp only [decode, h]) (fun _ _ => rfl)
    encOff_inside fun s c => by
      rw [azimuthRadians, toNat_columnEnc, twoPiQ28, toNat_ofNat_div ((radians_product_lt s _).trans (by decide))]

/-- Settles O18: the corners are those of `floor(t * unit / T)` with the unit `360 * 65536`. -/
theorem colAzdegIsFloorOfDegrees : Obligations.ColAzdegIsFloorOfDegrees := by
  refine ⟨colAzdeg_reads, fun s c hp hc hT h4 => ⟨fun ht => ?_, fun ht => ?_, fun ht => ?_⟩,
    fun s c c' hp hc hc' ht => ?_, fun s c => degrees_product_lt s _⟩
  · exact scalarResult_of_columnReads colAzdeg_reads hp hc (by simp [ht])
  · exact scalarResult_of_columnReads colAzdeg_reads hp hc (by simp only [ht, degrees_half hT h4])
  · refine ⟨_, ?_, scalarResult_of_columnReads colAzdeg_reads hp hc rfl⟩
    calc 23592960 = s.cfg.T * 23592960 / s.cfg.T := (Nat.mul_div_cancel_left _ hT).symm
      _ ≤ word4 s (colStart s c + 12) * 23592960 / s.cfg.T := scaledTicks_mono _ _ ht
      _ = word4 s (colStart s c + 12) * 360 * 65536 / s.cfg.T := by rw [Nat.mul_assoc]
  · refine ⟨_, _, ?_, scalarResult_of_columnReads colAzdeg_reads hp hc rfl,
      scalarResult_of_columnReads colAzdeg_reads hp hc' rfl⟩
    exact scaledTicks_mono _ _ (Nat.mul_le_mul_right 360 ht)

/-- Settles O19: the corners as in O18, the error bound from the digits of pi. -/
theorem colAzradIsFloorOfRadians : Obligations.ColAzradIsFloorOfRadians := by
  refine ⟨colAzrad_reads, fun s c hp hc hT => ⟨fun ht => ?_, fun ht => ?_, ?_⟩,
    fun s c c' hp hc hc' ht => ?_, fun s c => radians_product_lt s _⟩
  · exact scalarResult_of_columnReads colAzrad_reads hp hc (by simp [ht])
  · exact scalarResult_of_columnReads colAzrad_reads hp hc (by simp only [ht, Nat.mul_div_cancel_left _ hT])
  · exact ⟨_, scalarResult_of_columnReads colAzrad_reads hp hc rfl, radians_near _ hT⟩
  · exact ⟨_, _, scaledTicks_mono _ _ ht, scalarResult_of_columnReads colAzrad_reads hp hc rfl,
      scalarResult_of_columnReads colAzrad_reads hp hc' rfl⟩

end Sys2Proof.Proofs
end

section
/-!
PROOFS. The Calibration Model (41_calibration.md): the two loads by their checks, the accessors by their guard, and the
frame of the table, which only the loads and the system reset write (R155).
-/

namespace Sys2Proof.Machine

open Sys2Proof

/-! ### Command words of the formats M and FK (30_encoding.md R100, R104) -/

/-- A word of format M with `a = 0` gives the model number. -/
theorem formatM_packWord {op : BitVec 8} {m : Nat} (i : Nat → Instr) (hm : m < 4096) :
    formatM (packWord op 0 (BitVec.ofNat 12 m)) i = .ok (i m) := by
  rw [formatM, if_pos (aBits_packWord _ _ _), bBits_packWord, BitVec.toNat_ofNat, Nat.mod_eq_of_lt hm]

/-- A word of format FK gives the field of its select and the channel index. -/
theorem formatFK_packWord {op : BitVec 8} {k : Nat} (i : CalField → Nat → Instr) (f : CalField) (hk : k < 4096) :
    formatFK (packWord op (fieldNumber f) (BitVec.ofNat 12 k)) i = .ok (i f k) := by
  have hb : (bBits (packWord op (fieldNumber f) (BitVec.ofNat 12 k))).toNat = k := by
    rw [bBits_packWord, BitVec.toNat_ofNat, Nat.mod_eq_of_lt hk]
  rw [formatFK, aBits_packWord, hb]
  cases f <;> rfl

theorem decode_of_op_calBuiltin {w : Word} (h : (opBits w).toNat = 0x20) : decode w = formatM w .calBuiltin := by
  simp only [decode, h]

theorem decode_of_op_calGet {w : Word} (h : (opBits w).toNat = 0x22) : decode w = formatFK w .calGet := by
  simp only [decode, h]

theorem decode_calBuiltin {m : Nat} (hm : m < 4096) :
    decode (BitVec.ofNat 32 (0x20 * 2 ^ 24 + m)) = .ok (.calBuiltin m) := by
  have hword := ofNat_fields_eq_packWord (op := 0x20) (a := 0) (by decide) hm
  rw [Nat.zero_mul, Nat.add_zero] at hword
  rw [hword, decode_of_op_calBuiltin (toNat_opBits_packWord (by decide) _ _)]
  exact formatM_packWord .calBuiltin hm

theorem decode_calGet (f : CalField) {k : Nat} (hk : k < 4096) :
    decode (BitVec.ofNat 32 (0x22 * 2 ^ 24 + (fieldNumber f).toNat * 2 ^ 12 + k)) = .ok (.calGet f k) := by
  rw [ofNat_fields_eq_packWord (fieldNumber f).isLt hk, BitVec.ofNat_toNat, BitVec.setWidth_eq,
    decode_of_op_calGet (toNat_opBits_packWord (by decide) _ _)]
  exact formatFK_packWord .calGet f hk

/-! ### The look-up of `CAL.BUILTIN` (41_calibration.md R152) -/

theorem loadBuiltin_of_length_le {m : Nat} {s : State} (h : s.cfg.builtin.length ≤ m) :
    loadBuiltin m s = .raise s (mkErr .indexOutOfRange 3 s.cfg.builtin.length m) := by
  rw [loadBuiltin, List.getElem?_eq_none h]

theorem loadBuiltin_of_lt {m : Nat} {s : State} (h : m < s.cfg.builtin.length) :
    loadBuiltin m s = .complete { s with cal := s.cfg.builtin[m], calOk := true } .none := by
  rw [loadBuiltin, List.getElem?_eq_getElem h]

/-! ### The checks of `CAL.EXT` in their order (41_calibration.md R153) -/

section
variable {tbl : CalPayload} {s : State}

theorem loadExternal_of_resolution (hres : tbl.distanceResolution.toInt ≤ 0) :
    loadExternal tbl s = .raise s (mkErr .calibrationError 1 0 tbl.distanceResolution.toNat) := if_pos hres

theorem loadExternal_of_count_ne (hres : 0 < tbl.distanceResolution.toInt)
    (hcount : tbl.numLasers.toNat ≠ tbl.records.length) :
    loadExternal tbl s = .raise s (mkErr .calibrationError 2 tbl.numLasers.toNat tbl.records.length) :=
  (if_neg hres.not_ge).trans (if_pos hcount)

theorem loadExternal_of_badIndex {expected actual : Nat} (hres : 0 < tbl.distanceResolution.toInt)
    (hcount : tbl.numLasers.toNat = tbl.records.length)
    (hbad : firstBadIndex s.cfg.calOrigin tbl.records = some (expected, actual)) :
    loadExternal tbl s = .raise s (mkErr .calibrationError 3 expected actual) := by
  rw [loadExternal, if_neg hres.not_ge, if_neg (not_not.mpr hcount), hbad]

theorem loadExternal_of_tooMany (hres : 0 < tbl.distanceResolution.toInt)
    (hcount : tbl.numLasers.toNat = tbl.records.length)
    (hgood : firstBadIndex s.cfg.calOrigin tbl.records = none) (hcap : s.cfg.calCap < tbl.records.length) :
    loadExternal tbl s = .raise s (mkErr .bufferOverflow 3 s.cfg.calCap tbl.records.length) := by
  rw [loadExternal, if_neg hres.not_ge, if_neg (not_not.mpr hcount), hgood]
  exact if_pos hcap

theorem loadExternal_of_checked (hres : 0 < tbl.distanceResolution.toInt)
    (hcount : tbl.numLasers.toNat = tbl.records.length)
    (hgood : firstBadIndex s.cfg.calOrigin tbl.records = none) (hcap : tbl.records.length ≤ s.cfg.calCap) :
    loadExternal tbl s = .complete { s with cal := tableOfPayload tbl, calOk := true } .none := by
  rw [loadExternal, if_neg hres.not_ge, if_neg (not_not.mpr hcount), hgood]
  exact if_neg hcap.not_gt

end

/-- An entry of a loaded table is that of the record at its position, whatever the origin (41_calibration.md R154). -/
theorem tableOfPayload_lasers_getElem? (tbl : CalPayload) {j : Nat} (h : j < tbl.records.length) :
    (tableOfPayload tbl).lasers[j]? = some (laserOfRecord tbl.records[j]) := by
  rw [tableOfPayload, List.getElem?_map, List.getElem?_eq_getElem h, Option.map_some]

/-! ### The frame of the table (41_calibration.md R155, 10_state.md R29) -/

/-- The active table and its flag are those of `s`. -/
def KeepsTable (s t : State) : Prop := t.cal = s.cal ∧ t.calOk = s.calOk

/-- A batch writes the assembler and nothing else. -/
theorem runBatch_endsIn {P : State → Prop} (batch : List Point) (s : State) (hasm : ∀ a, P { s with asm := a }) :
    (runBatch batch s).EndsIn P := by
  rcases runBatch_cases batch s with ⟨r, e, -, -, h⟩ | ⟨r, -, -, h⟩ <;> rw [h]
  · exact hasm r.asm
  · exact hasm r.asm

/-- A push writes the assembler and the converter result and nothing else. -/
theorem pushPoints_endsIn {P : State → Prop} (src : PushSource) (s : State)
    (hpush : ∀ p a, P { s with pts := p, asm := a }) : (pushPoints src s).EndsIn P := by
  have hs : P s := hpush s.pts s.asm
  rcases pushPoints_cases src s with
    ⟨-, h⟩ | ⟨-, -, -, h⟩ | ⟨batch, s1, -, hs1, ⟨-, h⟩ | ⟨-, h⟩⟩ <;> rw [h]
  · exact hs
  · exact hs
  · exact hs
  · rcases hs1 with ⟨-, -, -, rfl⟩ | ⟨-, -, rfl⟩
    · exact runBatch_endsIn batch _ fun a => hpush .none a
    · exact runBatch_endsIn batch _ fun a => hpush s1.pts a

/-- `PROC` writes what its three stages write: the packet, the converter result, the assembler. -/
theorem processPacket_endsIn {P : State → Prop} (rx : List Byte) (s : State)
    (hproc : ∀ m ok p a, P { s with pkt := m, pktOk := ok, pts := p, asm := a }) :
    (processPacket rx s).EndsIn P := by
  rcases processPacket_cases rx s with ⟨-, h⟩ | ⟨-, -, h⟩ | ⟨s1, -, -, rfl, hend⟩
  · rw [h]
    exact hproc s.pkt s.pktOk s.pts s.asm
  · rw [h]
    exact hproc s.pkt false s.pts s.asm
  · have hconv := convert_endsIn (P := fun u => ∀ p a, P { u with pts := p, asm := a }) s.policy
      { s with pkt := Memory.ofBytes rx, pktOk := true } fun _ p a => hproc _ true p a
    rcases hend with ⟨s2, e, hc, h⟩ | ⟨w, -, h⟩ | ⟨s2, out, hc, h⟩ <;> rw [h]
    · rw [hc] at hconv
      exact hconv s2.pts s2.asm
    · trivial
    · rw [hc] at hconv
      exact pushPoints_endsIn .pts s2 hconv

/-- The completion writes nothing of the table. -/
theorem keepsTable_of_finish {r : Reply} {s t : State} (hr : r.EndsIn (KeepsTable s)) (h : finish r = .next t) :
    KeepsTable s t := by
  obtain ⟨u, hu, ⟨out, rfl⟩ | ⟨e, rfl⟩⟩ := finish_next_of_endsIn hr h
  · exact hu
  · exact hu

theorem keepsTable_writeRegister (s : State) (r : Nat) (v : BitVec 12) : KeepsTable s (writeRegister s r v) := by
  unfold writeRegister
  split <;> exact ⟨rfl, rfl⟩

/-- A check that raises before an operation that keeps the table. -/
theorem keepsTable_guard {c : Prop} [Decidable c] {s : State} {e : ErrRec} {r : Reply}
    (h : r.EndsIn (KeepsTable s)) : (if c then .raise s e else r).EndsIn (KeepsTable s) :=
  ite_endsIn (raise_endsIn ⟨rfl, rfl⟩) h

theorem keepsTable_completeScalar (s : State) (v : BitVec 64) : (completeScalar s v).EndsIn (KeepsTable s) :=
  completeScalar_endsIn fun _ => ⟨rfl, rfl⟩

/-- Whatever its completion, an operation that is no load and no system reset keeps the table. -/
theorem keepsTable_of_exec {i : Instr} {s t : State} (hbuiltin : ∀ m, i ≠ .calBuiltin m) (hext : i ≠ .calExt)
    (hsys : i ≠ .sysReset) (h : exec i s = .next t) : KeepsTable s t := by
  cases i with
  | calBuiltin m => exact absurd rfl (hbuiltin m)
  | calExt => exact absurd rfl hext
  | sysReset => exact absurd rfl hsys
  | nop => exact keepsTable_of_finish (complete_endsIn (s := s) ⟨rfl, rfl⟩) h
  | asmReset => exact keepsTable_of_finish (complete_endsIn (s := s.assemblerReset) ⟨rfl, rfl⟩) h
  | csrWr r v => exact keepsTable_of_finish (keepsTable_guard (complete_endsIn (keepsTable_writeRegister s r v))) h
  | csrRd r | calRes | calNum => exact keepsTable_of_finish (keepsTable_guard (keepsTable_completeScalar s _)) h
  | calGet f k =>
    exact keepsTable_of_finish (keepsTable_guard (keepsTable_guard (keepsTable_completeScalar s _))) h
  | pktLoad => exact keepsTable_of_finish (loadPacket_endsIn _ s fun _ _ => ⟨rfl, rfl⟩) h
  | pxDist c k | pxRefl c k | pxSig c k | pxNoise c k =>
    exact keepsTable_of_finish (pixelOp_endsIn s c k _ _ _ ⟨rfl, rfl⟩ fun _ => ⟨rfl, rfl⟩) h
  | colTs c | colMid c | colFid c | colEnc c | colValid c | colAzdeg c | colAzrad c =>
    exact keepsTable_of_finish (columnOp_endsIn s c _ _ _ ⟨rfl, rfl⟩ fun _ => ⟨rfl, rfl⟩) h
  | cvtLast | cvtStrongest | cvtDual | cvtRuntime =>
    exact keepsTable_of_finish (convert_endsIn _ s fun _ => ⟨rfl, rfl⟩) h
  | asmPush src => exact keepsTable_of_finish (pushPoints_endsIn src s fun _ _ => ⟨rfl, rfl⟩) h
  | proc => exact keepsTable_of_finish (processPacket_endsIn _ s fun _ _ _ _ => ⟨rfl, rfl⟩) h

/-- All or nothing: a rule that raises only in the state it began in keeps the table when its operation fails. -/
theorem keepsTable_of_raised {r : Reply} {s t : State}
    (hr : (∃ e, r = .raise s e) ∨ ∃ u out, r = .complete u out) (h : finish r = .next t) (herr : t.err.code ≠ 0) :
    KeepsTable s t := by
  rcases hr with ⟨e, rfl⟩ | ⟨u, out, rfl⟩
  · exact keepsTable_of_finish (raise_endsIn ⟨rfl, rfl⟩) h
  · cases h
    exact absurd rfl herr

/-! ### The accessors (41_calibration.md R157 to R159) -/

section
variable {s : State}

/-- Entry `k` of the table is what a lookup of it gives. -/
theorem laserAt_of_getElem? {t : CalTable} {k : Nat} {l : Laser} (h : t.lasers[k]? = some l) : laserAt t k = l := by
  rw [laserAt, List.getD_eq_getElem?_getD, h, Option.getD_some]

/-- Sign extension to `RES` keeps the signed value. -/
theorem toInt_signExtend_res (v : BitVec 32) : (v.signExtend 64).toInt = v.toInt :=
  BitVec.toInt_signExtend_of_le (by decide)

/-- The guard that the three accessors share. -/
theorem finish_tableGuard_of_noTable (h : s.calOk = false) (r : Reply) :
    finish (if s.calOk = false then .raise s (mkErr .notReady 2 0 0) else r) =
      finish (.raise s (mkErr .notReady 2 0 0)) := congrArg finish (if_pos h)

theorem finish_tableGuard_of_table (h : s.calOk = true) (r : Reply) :
    finish (if s.calOk = false then .raise s (mkErr .notReady 2 0 0) else r) = finish r :=
  congrArg finish (if_neg (by simp [h]))

theorem exec_calGet_of_num_le (f : CalField) {k : Nat} (h : s.calOk = true) (hk : s.cal.num.toNat ≤ k) :
    exec (.calGet f k) s = finish (.raise s (mkErr .indexOutOfRange 2 s.cal.num.toNat k)) :=
  (finish_tableGuard_of_table h _).trans (congrArg finish (if_pos hk))

theorem exec_calGet_of_lt_num (f : CalField) {k : Nat} {l : Laser} (h : s.calOk = true) (hk : k < s.cal.num.toNat)
    (hl : s.cal.lasers[k]? = some l) :
    exec (.calGet f k) s = finish (completeScalar s ((laserField l f).signExtend 64)) := by
  rw [← laserAt_of_getElem? hl]
  exact (finish_tableGuard_of_table h _).trans (congrArg finish (if_neg hk.not_ge))

end

end Sys2Proof.Machine

namespace Sys2Proof.Proofs

open Sys2Proof Sys2Proof.Machine Sys2Proof.Claims

/-- Settles O21: the look-up of the model in the list of built-in tables. -/
theorem calBuiltinMakesTheModelActive : Obligations.CalBuiltinMakesTheModelActive := by
  refine ⟨fun m hm => decode_calBuiltin hm, fun s m => ⟨fun h => ?_, fun h => ?_⟩⟩
  · exact congrArg finish (loadBuiltin_of_length_le h)
  · exact congrArg finish (loadBuiltin_of_lt h)

/-- Settles O22: the checks one by one; the first bad index by the law of its search. -/
theorem calExtChecksThenLoads : Obligations.CalExtChecksThenLoads := by
  refine ⟨by decide, fun s => ⟨fun hres => ?_, fun hres hcount => ?_, fun hres hcount => ⟨?_, ?_, ?_⟩⟩⟩
  · exact congrArg finish (loadExternal_of_resolution hres)
  · exact congrArg finish (loadExternal_of_count_ne hres hcount)
  · intro i hi hbefore hbad
    have hfirst := (firstBadIndex_some_iff s.cfg.calOrigin s.payload.tbl.records _ _).mpr
      ⟨i, hi, fun j hj => hbefore j (hj.trans hi) hj, hbad, rfl, rfl⟩
    exact congrArg finish (loadExternal_of_badIndex hres hcount hfirst)
  · intro hconsecutive hcap
    have hgood := (firstBadIndex_none_iff _ _).mpr fun i hi => hconsecutive i hi hi
    exact congrArg finish (loadExternal_of_tooMany hres hcount hgood hcap)
  · intro hconsecutive hcap hfits
    have hgood := (firstBadIndex_none_iff _ _).mpr fun i hi => hconsecutive i hi hi
    have hlength : (tableOfPayload s.payload.tbl).lasers.length = s.payload.tbl.records.length := List.length_map _
    obtain ⟨-, hnum, -⟩ := tableOfPayload_wf s.payload.tbl s.cfg.calCap hres hcap hfits
    exact ⟨tableOfPayload s.payload.tbl, congrArg finish (loadExternal_of_checked hres hcount hgood hcap),
      hnum.trans hlength, rfl, hlength, fun j hj => tableOfPayload_lasers_getElem? _ hj⟩

/-- Settles O23: a load writes the table only where it completes; the other operations by their frame. -/
theorem tableIsReplacedWholeOrKept : Obligations.TableIsReplacedWholeOrKept := by
  refine fun i s t h => ⟨fun hload herr => ?_, fun hbuiltin hext hsys => keepsTable_of_exec hbuiltin hext hsys h⟩
  rcases hload with ⟨m, rfl⟩ | rfl
  · refine keepsTable_of_raised (r := loadBuiltin m s) ?_ h herr
    rcases loadBuiltin_cases m s with ⟨-, hr⟩ | ⟨t, -, hr⟩
    · exact .inl ⟨_, hr⟩
    · exact .inr ⟨_, _, hr⟩
  · refine keepsTable_of_raised (r := loadExternal s.payload.tbl s) ?_ h herr
    rcases loadExternal_cases s.payload.tbl s with ⟨e, hr⟩ | ⟨-, -, -, -, hr⟩
    · exact .inl ⟨e, hr⟩
    · exact .inr ⟨_, _, hr⟩

/-- Settles O24: the guard, the index check and the sign extension; the last clause is the table's invariant (R151). -/
theorem calAccessorsReadTheTable : Obligations.CalAccessorsReadTheTable := by
  refine ⟨fun k hk => ⟨decode_calGet .elev hk, decode_calGet .azoff hk, decode_calGet .voff hk, decode_calGet .hoff hk⟩,
    by decide, by decide, fun s k => ⟨fun h => ?_, fun h hk f => ?_, fun h hk l hl => ?_, fun h => ⟨?_, ?_⟩,
      fun hinv h => ?_⟩⟩
  · exact ⟨fun _ => finish_tableGuard_of_noTable h _, finish_tableGuard_of_noTable h _,
      finish_tableGuard_of_noTable h _⟩
  · exact exec_calGet_of_num_le f h hk
  · have hget (f : CalField) := exec_calGet_of_lt_num f h hk hl
    exact ⟨_, _, _, _, toInt_signExtend_res l.elev, hget .elev, toInt_signExtend_res l.azoff, hget .azoff,
      toInt_signExtend_res l.voff, hget .voff, toInt_signExtend_res l.hoff, hget .hoff⟩
  · exact ⟨_, toInt_signExtend_res s.cal.res, finish_tableGuard_of_table h _⟩
  · exact ⟨_, BitVec.toNat_setWidth_of_le (by decide), finish_tableGuard_of_table h _⟩
  · obtain ⟨hres, hnum, -⟩ := hinv.tableActive h
    exact ⟨hres, hnum⟩

end Sys2Proof.Proofs
end

section
/-!
PROOFS. The Point Converter (42_converter.md): the bounds of the datapath (R186), the checks of a conversion in their
order (R171), and the fields of a point (R178). A policy enters a conversion by the form it resolves to, so that each
outcome is said once for all four operations.
-/

namespace Sys2Proof.Machine

open Sys2Proof

/-! ### The bounds of the datapath (42_converter.md R186) -/

theorem trigTable_of_wf {cfg : Cfg} (h : cfg.Wf) : cfg.TrigTable := by
  obtain ⟨-, -, -, -, -, -, -, -, -, htable, -⟩ := h
  exact htable

theorem abs_sinq_le {cfg : Cfg} (h : cfg.TrigTable) (a : Int) : |sinq cfg a| ≤ 2 ^ 30 := by
  rw [Int.abs_eq_natAbs]
  exact_mod_cast sinq_natAbs_le cfg h a

theorem abs_cosq_le {cfg : Cfg} (h : cfg.TrigTable) (a : Int) : |cosq cfg a| ≤ 2 ^ 30 := abs_sinq_le h _

/-- A product with a TRIG value, in units of `2^30`. -/
theorem abs_mul_trig_le {u t D : Int} (hu : |u| ≤ D) (ht : |t| ≤ 2 ^ 30) : |u * t| ≤ D * 2 ^ 30 := by
  rw [abs_mul]
  exact mul_le_mul hu ht (abs_nonneg t) ((abs_nonneg u).trans hu)

/-- Every intermediate of R177 is a sum or a difference of two such products. -/
theorem abs_add_trig_le {u v t w D E : Int} (hu : |u| ≤ D) (hv : |v| ≤ E) (ht : |t| ≤ 2 ^ 30) (hw : |w| ≤ 2 ^ 30) :
    |u * t + v * w| ≤ (D + E) * 2 ^ 30 := by
  calc |u * t + v * w| ≤ |u * t| + |v * w| := abs_add_le _ _
    _ ≤ D * 2 ^ 30 + E * 2 ^ 30 := add_le_add (abs_mul_trig_le hu ht) (abs_mul_trig_le hv hw)
    _ = (D + E) * 2 ^ 30 := (add_mul D E _).symm

theorem abs_sub_trig_le {u v t w D E : Int} (hu : |u| ≤ D) (hv : |v| ≤ E) (ht : |t| ≤ 2 ^ 30) (hw : |w| ≤ 2 ^ 30) :
    |u * t - v * w| ≤ (D + E) * 2 ^ 30 := by
  rw [sub_eq_add_neg, ← neg_mul]
  exact abs_add_trig_le hu ((abs_neg v).trans_le hv) ht hw

/-- The floor does not pass an integer bound, on the negative side either. -/
theorem abs_asr30_le {v D : Int} (h : |v| ≤ D * 2 ^ 30) : |asr30 v| ≤ D := by
  rw [abs_le] at h ⊢
  unfold asr30
  omega

/-- A signed 32-bit offset. -/
theorem abs_toInt_le (v : BitVec 32) : |v.toInt| ≤ 2 ^ 31 := by
  have hlo := BitVec.le_toInt v
  have hhi := BitVec.toInt_lt (x := v)
  rw [abs_le]
  omega

/-- The narrowing to 64 bits keeps every value that the datapath can give. -/
theorem toInt_ofInt_of_abs_lt {v : Int} (h : |v| < 2 ^ 63) : (BitVec.ofInt 64 v).toInt = v := by
  rw [abs_lt] at h
  exact BitVec.toInt_ofInt_eq_self (by decide) (by omega) (by omega)

/-- The scaled distance (42_converter.md R175), whatever the sign of the resolution. -/
theorem abs_scaledDistance_lt {raw : Nat} (h : raw < 2 ^ 20) (res : BitVec 32) : |(raw : Int) * res.toInt| < 2 ^ 51 := by
  have hraw : |(raw : Int)| ≤ 2 ^ 20 - 1 := by rw [Nat.abs_cast]; omega
  calc |(raw : Int) * res.toInt| = |(raw : Int)| * |res.toInt| := abs_mul _ _
    _ ≤ (2 ^ 20 - 1) * 2 ^ 31 := mul_le_mul hraw (abs_toInt_le res) (abs_nonneg _) (by norm_num)
    _ < 2 ^ 51 := by norm_num

section
variable {cfg : Cfg} {dq voff hoff : Int}

/-- The sum below the plane distance. -/
theorem abs_planeSum_le (hT : cfg.TrigTable) (hdq : |dq| < 2 ^ 51) (hv : |voff| ≤ 2 ^ 31) (elev : Int) :
    |dq * cosq cfg elev - voff * sinq cfg elev| ≤ (2 ^ 51 - 1 + 2 ^ 31) * 2 ^ 30 :=
  abs_sub_trig_le (Int.le_sub_one_of_lt hdq) hv (abs_cosq_le hT elev) (abs_sinq_le hT elev)

/-- The sum below z. -/
theorem abs_heightSum_le (hT : cfg.TrigTable) (hdq : |dq| < 2 ^ 51) (hv : |voff| ≤ 2 ^ 31) (elev : Int) :
    |dq * sinq cfg elev + voff * cosq cfg elev| ≤ (2 ^ 51 - 1 + 2 ^ 31) * 2 ^ 30 :=
  abs_add_trig_le (Int.le_sub_one_of_lt hdq) hv (abs_sinq_le hT elev) (abs_cosq_le hT elev)

/-- The sums below x and y, for a plane distance in its bound. -/
theorem abs_turnSums_le {plane : Int} (hT : cfg.TrigTable) (hplane : |plane| ≤ 2 ^ 51 - 1 + 2 ^ 31)
    (hh : |hoff| ≤ 2 ^ 31) (a : Int) :
    |plane * sinq cfg a - hoff * cosq cfg a| ≤ (2 ^ 51 - 1 + 2 ^ 31 + 2 ^ 31) * 2 ^ 30 ∧
    |plane * cosq cfg a + hoff * sinq cfg a| ≤ (2 ^ 51 - 1 + 2 ^ 31 + 2 ^ 31) * 2 ^ 30 :=
  ⟨abs_sub_trig_le hplane hh (abs_sinq_le hT a) (abs_cosq_le hT a),
    abs_add_trig_le hplane hh (abs_cosq_le hT a) (abs_sinq_le hT a)⟩

theorem abs_project_le (hT : cfg.TrigTable) (hdq : |dq| < 2 ^ 51) (hv : |voff| ≤ 2 ^ 31) (hh : |hoff| ≤ 2 ^ 31)
    (elev a : Int) :
    |(project cfg dq elev a voff hoff).x| ≤ 2 ^ 51 - 1 + 2 ^ 31 + 2 ^ 31 ∧
    |(project cfg dq elev a voff hoff).y| ≤ 2 ^ 51 - 1 + 2 ^ 31 + 2 ^ 31 ∧
    |(project cfg dq elev a voff hoff).z| ≤ 2 ^ 51 - 1 + 2 ^ 31 := by
  have hplane := abs_asr30_le (abs_planeSum_le hT hdq hv elev)
  obtain ⟨hx, hy⟩ := abs_turnSums_le hT hplane hh a
  exact ⟨abs_asr30_le hx, abs_asr30_le hy, abs_asr30_le (abs_heightSum_le hT hdq hv elev)⟩

/-- The narrowing keeps every coordinate of a projection. -/
theorem toInt_ofInt_project (hT : cfg.TrigTable) (hdq : |dq| < 2 ^ 51) (hv : |voff| ≤ 2 ^ 31) (hh : |hoff| ≤ 2 ^ 31)
    (elev a : Int) :
    (BitVec.ofInt 64 (project cfg dq elev a voff hoff).x).toInt = (project cfg dq elev a voff hoff).x ∧
    (BitVec.ofInt 64 (project cfg dq elev a voff hoff).y).toInt = (project cfg dq elev a voff hoff).y ∧
    (BitVec.ofInt 64 (project cfg dq elev a voff hoff).z).toInt = (project cfg dq elev a voff hoff).z := by
  obtain ⟨hx, hy, hz⟩ := abs_project_le hT hdq hv hh elev a
  exact ⟨toInt_ofInt_of_abs_lt (hx.trans_lt (by norm_num)), toInt_ofInt_of_abs_lt (hy.trans_lt (by norm_num)),
    toInt_ofInt_of_abs_lt (hz.trans_lt (by norm_num))⟩

end

/-- The mask of R123 leaves 20 bits. -/
theorem toNat_pixelDist_lt (cfg : Cfg) (m : Memory) (c k : Nat) : (pixelDist cfg m c k).toNat < 2 ^ 20 := by
  rw [pixelDist, BitVec.toNat_and]
  exact Nat.and_lt_two_pow _ (by decide)

/-- So the narrowing keeps the position of every firing of a packet, whatever the table holds. -/
theorem toInt_ofInt_positionOf {cfg : Cfg} (hT : cfg.TrigTable) (m : Memory) (cal : CalTable) (c k : Nat) :
    (BitVec.ofInt 64 (positionOf cfg m cal c k).x).toInt = (positionOf cfg m cal c k).x ∧
    (BitVec.ofInt 64 (positionOf cfg m cal c k).y).toInt = (positionOf cfg m cal c k).y ∧
    (BitVec.ofInt 64 (positionOf cfg m cal c k).z).toInt = (positionOf cfg m cal c k).z :=
  toInt_ofInt_project hT (abs_scaledDistance_lt (toNat_pixelDist_lt cfg m c k) cal.res) (abs_toInt_le _)
    (abs_toInt_le _) _ _

/-! ### The checks of a conversion in their order (42_converter.md R171) -/

/-- The bytes that name no form (30_encoding.md R98). -/
theorem formOfReturnMode_eq_none_iff (byte : BitVec 8) :
    formOfReturnMode byte = none ↔ ¬(byte = 0x37 ∨ byte = 0x38 ∨ byte = 0x39) := by
  simp only [← BitVec.toNat_inj]
  unfold formOfReturnMode
  split <;> simp_all

section
variable {policy : Policy} {s : State}

theorem convert_of_noPacket (h : s.pktOk = false) :
    convert policy s = .raise { s with pts := .none } (mkErr .notReady 1 0 0) := if_pos h

theorem convert_of_noTable (hp : s.pktOk = true) (h : s.calOk = false) :
    convert policy s = .raise { s with pts := .none } (mkErr .notReady 2 0 0) :=
  (if_neg (by simp [hp])).trans (if_pos h)

theorem convert_of_unknownMode (hp : s.pktOk = true) (hc : s.calOk = true)
    (h : resolvePolicy policy s.retmode = none) :
    convert policy s = .raise { s with pts := .none } (mkErr .unknownReturnMode 0 0 s.retmode.toNat) := by
  simp [convert, hp, hc, h, conversionFails]

theorem convert_of_count_ne {form : Form} (hp : s.pktOk = true) (hc : s.calOk = true)
    (h : resolvePolicy policy s.retmode = some form) (hn : s.cal.num.toNat ≠ s.cfg.N) :
    convert policy s =
      .raise { s with pts := .none } (mkErr .channelCountMismatch 0 s.cfg.N s.cal.num.toNat) := by
  simp [convert, hp, hc, h, hn, conversionFails]

theorem convert_of_single {tag : Ret} (hp : s.pktOk = true) (hc : s.calOk = true)
    (h : resolvePolicy policy s.retmode = some (.single tag)) (hn : s.cal.num.toNat = s.cfg.N) :
    convert policy s = conversionGives s (.single (singlePoints s.cfg s.pkt s.cal tag)) := by
  simp [convert, hp, hc, h, hn]

theorem convert_of_dual_odd (hp : s.pktOk = true) (hc : s.calOk = true)
    (h : resolvePolicy policy s.retmode = some .dual) (hn : s.cal.num.toNat = s.cfg.N) (hodd : s.cfg.C % 2 = 1) :
    convert policy s = .refused .dualShapeOddColumns := by
  simp [convert, hp, hc, h, hn, hodd]

theorem convert_of_dual_even (hp : s.pktOk = true) (hc : s.calOk = true)
    (h : resolvePolicy policy s.retmode = some .dual) (hn : s.cal.num.toNat = s.cfg.N) (heven : s.cfg.C % 2 = 0) :
    convert policy s = conversionGives s (.dual (dualPairs s.cfg s.pkt s.cal)) := by
  simp [convert, hp, hc, h, hn, heven]

end

/-- A policy enters a conversion by its form and by nothing else. -/
theorem convert_congr {policy policy' : Policy} {s : State}
    (h : resolvePolicy policy s.retmode = resolvePolicy policy' s.retmode) : convert policy s = convert policy' s := by
  unfold convert
  rw [h]

end Sys2Proof.Machine

namespace Sys2Proof.Proofs

open Sys2Proof Sys2Proof.Machine Sys2Proof.Claims

/-! ### The four conversions -/

theorem exec_conversionOf (policy : Policy) (s : State) : exec (conversionOf policy) s = finish (convert policy s) := by
  cases policy <;> rfl

theorem exists_conversionOf {i : Instr} (h : i ∈ [Instr.cvtLast, .cvtStrongest, .cvtDual, .cvtRuntime]) :
    ∃ policy, i = conversionOf policy := by
  simp only [List.mem_cons, List.not_mem_nil, or_false] at h
  rcases h with rfl | rfl | rfl | rfl
  · exact ⟨.last, rfl⟩
  · exact ⟨.strongest, rfl⟩
  · exact ⟨.dual, rfl⟩
  · exact ⟨.runtime, rfl⟩

/-- Only the runtime policy can meet an unknown return mode. -/
theorem resolvePolicy_eq_none_iff (policy : Policy) (byte : BitVec 8) :
    resolvePolicy policy byte = none ↔
      conversionOf policy = .cvtRuntime ∧ ¬(byte = 0x37 ∨ byte = 0x38 ∨ byte = 0x39) := by
  cases policy with
  | runtime => exact (formOfReturnMode_eq_none_iff byte).trans (by simp [conversionOf])
  | last | strongest | dual => simp [resolvePolicy, conversionOf]

/-- The dual shape is asked for by its own operation and by the byte 0x39. -/
theorem resolvePolicy_eq_dual {policy : Policy} {byte : BitVec 8}
    (h : conversionOf policy = .cvtDual ∨ conversionOf policy = .cvtRuntime ∧ byte = 0x39) :
    resolvePolicy policy byte = some .dual := by
  cases policy with
  | dual => rfl
  | runtime =>
    obtain ⟨-, rfl⟩ := h.resolve_left (by simp [conversionOf])
    rfl
  | last | strongest => simp [conversionOf] at h

/-! ### The fields of a point -/

/-- An intensity field holds its two bytes. -/
theorem toNat_field16 (s : State) (a : Nat) : (BitVec.ofNat 16 (memRead s.pkt a 2)).toNat = word2 s a :=
  toNat_ofNat_memRead _ _ (by decide)

/-- The projection reads the distance below its 12 reserved bits. -/
theorem toNat_pixelDist_word (s : State) (c k : Nat) :
    (pixelDist s.cfg s.pkt c k).toNat = word4 s (pxStart s c k) % 2 ^ 20 := by
  rw [← toNat_pixelDist, BitVec.toNat_setWidth_of_le (by decide)]

theorem columnValid_iff (s : State) (c : Nat) :
    columnValid s.cfg s.pkt c = true ↔ word4 s (colStart s c + 16 + 12 * s.cfg.N) = 0xFFFFFFFF := by
  rw [columnValid, decide_eq_true_iff, memRead_four]
  rfl

/-- The position is the projection of the packet's words and of the channel's table entry, all as numbers. -/
theorem positionOf_words {s : State} {k : Nat} {l : Laser} (h : s.cal.lasers[k]? = some l) (c : Nat) :
    positionOf s.cfg s.pkt s.cal c k =
      project s.cfg ((word4 s (pxStart s c k) % 2 ^ 20 : Nat) * s.cal.res.toInt) l.elev.toInt
        (correctedAzimuth s.cfg (word4 s (colStart s c + 12) : Nat) l.azoff.toInt) l.voff.toInt l.hoff.toInt := by
  rw [positionOf, laserAt_of_getElem? h, toNat_pixelDist_word, toNat_columnEnc]

theorem toNat_channel {cfg : Cfg} (hwf : cfg.Wf) {k : Nat} (hk : k < cfg.N) : (BitVec.ofNat 16 k).toNat = k := by
  obtain ⟨⟨-, hN⟩, -⟩ := hwf
  rw [BitVec.toNat_ofNat, Nat.mod_eq_of_lt (by omega)]

/-- `Pt(c, k, tag)` as the model builds it has every field of R178: the position by the exact projection, which the
narrowing keeps, the others by the packet's words. -/
theorem pointAt_isPoint {s : State} (h : Ready s) (c : Nat) {k : Nat} (hk : k < s.cfg.N) (tag : Ret) :
    IsPoint s c k tag (pointAt s.cfg s.pkt s.cal c k tag) := by
  obtain ⟨hwf, -, -, -, hlength⟩ := h
  have hlaser := List.getElem?_eq_getElem (hlength ▸ hk)
  obtain ⟨hx, hy, hz⟩ := toInt_ofInt_positionOf (trigTable_of_wf hwf) s.pkt s.cal c k
  have hposition := positionOf_words hlaser c
  exact ⟨_, hlaser, hx.trans (congrArg Position.x hposition), hy.trans (congrArg Position.y hposition),
    hz.trans (congrArg Position.z hposition), toNat_field16 s _, toNat_field16 s _, toNat_field16 s _,
    toNat_columnEnc s c, toNat_channel hwf hk, rfl, toNat_columnTs s c, columnValid_iff s c, rfl⟩

/-! ### The statements -/

/-- Settles O25: the checks one by one, for any policy. -/
theorem conversionChecksInOrder : Obligations.ConversionChecksInOrder := by
  intro s i hi
  obtain ⟨policy, rfl⟩ := exists_conversionOf hi
  simp only [exec_conversionOf]
  refine ⟨fun hp => ?_, fun hp hc => ?_, fun hp hc hrun hmode => ?_, fun hp hc hmode hn => ?_,
    fun hp hc hn hodd hdual => ?_⟩
  · exact congrArg finish (convert_of_noPacket hp)
  · exact congrArg finish (convert_of_noTable hp hc)
  · exact congrArg finish (convert_of_unknownMode hp hc ((resolvePolicy_eq_none_iff _ _).mpr ⟨hrun, hmode⟩))
  · have hform : resolvePolicy policy s.retmode ≠ none := fun hnone => by
      obtain ⟨hrun, hunknown⟩ := (resolvePolicy_eq_none_iff _ _).mp hnone
      exact hunknown (hmode hrun)
    obtain ⟨form, hform⟩ := Option.ne_none_iff_exists'.mp hform
    exact congrArg finish (convert_of_count_ne hp hc hform hn)
  · exact congrArg finish (convert_of_dual_odd hp hc (resolvePolicy_eq_dual hdual) hn hodd)

/-- Settles O26: the scan of the packet, entry by entry. -/
theorem singleConversionGivesEveryPoint : Obligations.SingleConversionGivesEveryPoint := by
  intro s h
  have ⟨_, hp, hc, hn, _⟩ := h
  refine ⟨singlePoints s.cfg s.pkt s.cal .last, singlePoints s.cfg s.pkt s.cal .strongest,
    congrArg finish (convert_of_single (policy := .last) hp hc rfl hn),
    congrArg finish (convert_of_single (policy := .strongest) hp hc rfl hn),
    length_singlePoints _ _ _ _, length_singlePoints _ _ _ _, fun c k hcol hk => ?_⟩
  exact ⟨⟨_, getElem?_singlePoints _ _ _ _ c k hcol hk, pointAt_isPoint h c hk .last⟩,
    ⟨_, getElem?_singlePoints _ _ _ _ c k hcol hk, pointAt_isPoint h c hk .strongest⟩⟩

/-- Settles O27: the scan of the column pairs, entry by entry. -/
theorem dualConversionPairsColumns : Obligations.DualConversionPairsColumns := by
  intro s h
  have ⟨_, hp, hc, hn, _⟩ := h
  refine ⟨fun hodd => congrArg finish (convert_of_dual_odd (policy := .dual) hp hc rfl hn hodd), fun heven => ?_⟩
  refine ⟨dualPairs s.cfg s.pkt s.cal, congrArg finish (convert_of_dual_even (policy := .dual) hp hc rfl hn heven),
    length_dualPairs _ _ _, fun j k hj hk => ?_⟩
  exact ⟨_, _, getElem?_dualPairs _ _ _ j k hj hk, pointAt_isPoint h _ hk .last, pointAt_isPoint h _ hk .strongest⟩

/-- Settles O28: each known byte resolves to the form of the policy it names; any other resolves to none. -/
theorem runtimePolicyFollowsTheReturnMode : Obligations.RuntimePolicyFollowsTheReturnMode := by
  refine ⟨by decide, fun s => ⟨fun h => ?_, fun h => ?_, fun h => ?_, fun hp hc hn hmode => ?_,
    fun h37 h38 h39 => ⟨fun hp => ?_, fun hp hc => ?_, fun hp hc => ?_⟩⟩⟩
  · exact congrArg finish (convert_congr (policy := .runtime) (policy' := .strongest) (by rw [h]; rfl))
  · exact congrArg finish (convert_congr (policy := .runtime) (policy' := .last) (by rw [h]; rfl))
  · exact congrArg finish (convert_congr (policy := .runtime) (policy' := .dual) (by rw [h]; rfl))
  · rcases hmode with h | h | ⟨h, heven⟩
    · exact ⟨_, Pts.noConfusion, congrArg finish
        (convert_of_single (policy := .runtime) (tag := .strongest) hp hc (by rw [h]; rfl) hn)⟩
    · exact ⟨_, Pts.noConfusion, congrArg finish
        (convert_of_single (policy := .runtime) (tag := .last) hp hc (by rw [h]; rfl) hn)⟩
    · exact ⟨_, Pts.noConfusion, congrArg finish
        (convert_of_dual_even (policy := .runtime) hp hc (by rw [h]; rfl) hn heven)⟩
  · exact congrArg finish (convert_of_noPacket (policy := .runtime) hp)
  · exact congrArg finish (convert_of_noTable (policy := .runtime) hp hc)
  · have hnone := (formOfReturnMode_eq_none_iff s.retmode).mpr (not_or.mpr ⟨h37, not_or.mpr ⟨h38, h39⟩⟩)
    exact congrArg finish (convert_of_unknownMode (policy := .runtime) hp hc hnone)

/-- Settles O29: the bounds from the inputs up, each by one sum of two products and one floor. -/
theorem datapathNeverOverflows : Obligations.DatapathNeverOverflows := by
  refine ⟨fun cfg raw res elev voff hoff a hwf hraw hres => ?_, by decide, by decide, by decide⟩
  have hT := trigTable_of_wf hwf
  have hdq := abs_scaledDistance_lt hraw res
  have hv := abs_toInt_le voff
  have hh := abs_toInt_le hoff
  have hsum := abs_planeSum_le hT hdq hv elev.toInt
  have hplane := abs_asr30_le hsum
  obtain ⟨hxsum, hysum⟩ := abs_turnSums_le hT hplane hh a
  have hzsum := abs_heightSum_le hT hdq hv elev.toInt
  obtain ⟨hx, hy, hz⟩ := abs_project_le hT hdq hv hh elev.toInt a
  have hnonneg : 0 ≤ (raw : Int) * res.toInt := mul_nonneg (Int.natCast_nonneg raw) hres.le
  have hlargest : (raw : Int) * res.toInt ≤ (2 ^ 20 - 1) * (2 ^ 31 - 1) := by
    have hmax := BitVec.toInt_lt (x := res)
    exact mul_le_mul (by omega) (by omega) hres.le (by norm_num)
  exact ⟨⟨hnonneg, hlargest, (le_abs_self _).trans_lt hdq⟩, hv, hh,
    abs_sinq_le hT _, abs_cosq_le hT _, abs_sinq_le hT a, abs_cosq_le hT a,
    hsum.trans_lt (by norm_num), hplane.trans_lt (by norm_num),
    hxsum.trans_lt (by norm_num), hysum.trans_lt (by norm_num), hzsum.trans_lt (by norm_num),
    hx.trans_lt (by norm_num), hy.trans_lt (by norm_num), hz.trans_lt (by norm_num),
    toInt_ofInt_project hT hdq hv hh elev.toInt a⟩

end Sys2Proof.Proofs
end

section
/-!
PROOFS. The inputs of the Frame Assembler (43_assembler.md): the two sources of a push feed one rule (R218, R219), and
that rule examines no validity flag (R223). The second is a simulation: clearing the flags commutes with every function
of the assembler, from the sort of one column up to the push.
-/

namespace Sys2Proof.Machine

open Sys2Proof

/-! ### An accepted push (43_assembler.md R218) -/

theorem exceeds_eq_false_iff (cap : Option Nat) (n : Nat) : exceeds cap n = false ↔ WithinCap cap n := by
  cases cap <;> simp [exceeds, WithinCap]

theorem withRoom_of_withinCap {batch : List Point} {s : State} (accepted : Reply)
    (h : WithinCap s.cfg.inqCap (s.asm.inq.length + batch.length)) : withRoom batch s accepted = accepted :=
  if_neg (by simp [(exceeds_eq_false_iff _ _).mpr h])

theorem pushPoints_host_of_withinCap {s : State} (hf : s.asm.fatal = false)
    (h : WithinCap s.cfg.inqCap (s.asm.inq.length + s.payload.pts.length)) :
    pushPoints .host s = runBatch s.payload.pts s :=
  (if_neg (Bool.eq_false_iff.mp hf)).trans (withRoom_of_withinCap _ h)

/-- An accepted push of a converter result runs the fed points with the result consumed. -/
theorem pushPoints_pts_of_withinCap {s : State} (hf : s.asm.fatal = false) (hp : s.pts ≠ .none)
    (h : WithinCap s.cfg.inqCap (s.asm.inq.length + (feed s.dualsel s.pts).length)) :
    pushPoints .pts s = runBatch (feed s.dualsel s.pts) { s with pts := .none } := by
  refine (if_neg (Bool.eq_false_iff.mp hf)).trans ?_
  unfold pushConverted
  cases hs : s.pts with
  | none => exact absurd hs hp
  | single points | dual pairs =>
    rw [hs] at h
    exact withRoom_of_withinCap _ h

end Sys2Proof.Machine

namespace Sys2Proof.Proofs

open Sys2Proof Sys2Proof.Machine Sys2Proof.Claims

/-! ### The two sources -/

/-- A batch runs alike whatever points the host presents, which it leaves where they are. -/
theorem finish_runBatch_presenting (batch points : List Point) (s : State) :
    ∃ t, finish (runBatch batch (presenting s points)) = .next t ∧
      finish (runBatch batch s) = .next { t with payload := s.payload } := by
  simp only [runBatch, presenting]
  cases (runQueue s.cfg ((clearFrame s.asm).inq ++ batch) (clearFrame s.asm)).raised with
  | some e => exact ⟨_, rfl, rfl⟩
  | none => exact ⟨_, rfl, rfl⟩

/-- The fed points in the three cases of R219: the points themselves, the last returns, the strongest returns. -/
theorem feed_eq_of_source {s : State} {batch : List Point}
    (h : s.pts = .single batch ∨
      (∃ pairs, s.pts = .dual pairs ∧ s.dualsel = false ∧ batch = pairs.map Prod.fst) ∨
      (∃ pairs, s.pts = .dual pairs ∧ s.dualsel = true ∧ batch = pairs.map Prod.snd)) :
    s.pts ≠ .none ∧ feed s.dualsel s.pts = batch := by
  rcases h with hp | ⟨pairs, hp, hd, rfl⟩ | ⟨pairs, hp, hd, rfl⟩
  · rw [hp]
    exact ⟨Pts.noConfusion, rfl⟩
  · rw [hp, hd]
    exact ⟨Pts.noConfusion, rfl⟩
  · rw [hp, hd]
    exact ⟨Pts.noConfusion, rfl⟩

/-- Settles O35: both sources run the fed points, and a run does not look at the payload. -/
theorem pushOfTheConverterResult : Obligations.PushOfTheConverterResult := by
  intro s batch hf hroom hsource
  obtain ⟨hp, rfl⟩ := feed_eq_of_source hsource
  obtain ⟨t, hhost, hpts⟩ :=
    finish_runBatch_presenting (feed s.dualsel s.pts) (feed s.dualsel s.pts) { s with pts := .none }
  refine ⟨t, ?_, ?_⟩
  · have hpush := pushPoints_host_of_withinCap
      (s := presenting { s with pts := .none } (feed s.dualsel s.pts)) hf hroom
    rw [exec_asmPush, hpush]
    exact hhost
  · rw [exec_asmPush, pushPoints_pts_of_withinCap hf hp hroom]
    exact hpts

/-! ### Clearing the validity flags commutes with STEP (43_assembler.md R201, R223) -/

/-- The assembler's part of `unmarkedState`: every validity flag in its buffers cleared. -/
def unmarkedAsm (a : Asm) : Asm :=
  { a with
    inq := a.inq.map unmarked
    rev := a.rev.map (fun column => column.map unmarked)
    colbuf := a.colbuf.map unmarked
    frame := unmarkedFrame a.frame }

theorem unmarkedState_asm (s : State) : (unmarkedState s).asm = unmarkedAsm s.asm := rfl

/-- The result of STEP with every validity flag cleared; an error holds none. -/
def unmarkedResult : PointResult → PointResult
  | .ok a => .ok (unmarkedAsm a)
  | .raise e => .raise e

@[simp] theorem unmarkedResult_ok (a : Asm) : unmarkedResult (.ok a) = .ok (unmarkedAsm a) := rfl

@[simp] theorem unmarkedResult_raise (e : ErrRec) : unmarkedResult (.raise e) = .raise e := rfl

theorem insertByChannel_unmarked (p : Point) (column : List Point) :
    insertByChannel (unmarked p) (column.map unmarked) = (insertByChannel p column).map unmarked := by
  induction column with
  | nil => rfl
  | cons q qs ih =>
    simp only [List.map_cons, insertByChannel, ih, apply_ite (List.map unmarked)]
    rfl

theorem sortByChannel_unmarked (column : List Point) :
    sortByChannel (column.map unmarked) = (sortByChannel column).map unmarked := by
  unfold sortByChannel
  rw [List.foldl_map]
  exact List.foldl_hom (List.map unmarked) (init := []) fun sorted p => insertByChannel_unmarked p sorted

theorem detectedBeams_unmarked (column : List Point) :
    detectedBeams (column.map unmarked) = detectedBeams column := by
  unfold detectedBeams
  rw [List.getLast?_map]
  cases column.getLast? <;> rfl

theorem flushColumn_unmarked (cfg : Cfg) (a : Asm) :
    flushColumn cfg (unmarkedAsm a) = unmarkedResult (flushColumn cfg a) := by
  simp only [flushColumn, apply_ite unmarkedResult, unmarkedResult_ok, unmarkedResult_raise]
  simp only [unmarkedAsm, detectedBeams_unmarked, List.length_map, List.map_append, List.map_cons, List.map_nil]

theorem finaliseFrame_unmarked (a : Asm) : finaliseFrame (unmarkedAsm a) = unmarkedAsm (finaliseFrame a) := by
  simp only [finaliseFrame, unmarkedAsm, unmarkedFrame, List.flatMap_map, List.map_flatMap, sortByChannel_unmarked,
    List.length_map, List.map_nil]

theorem finaliseIfBoundary_unmarked (boundary : Bool) (a : Asm) :
    finaliseIfBoundary boundary (unmarkedAsm a) = unmarkedAsm (finaliseIfBoundary boundary a) := by
  have hempty : (unmarkedAsm a).rev.isEmpty = a.rev.isEmpty := List.isEmpty_map
  simp only [finaliseIfBoundary, hempty, finaliseFrame_unmarked, apply_ite unmarkedAsm]

theorem appendPoint_unmarked (a : Asm) (p : Point) :
    appendPoint (unmarkedAsm a) (unmarked p) = unmarkedAsm (appendPoint a p) := by
  simp only [appendPoint, unmarkedAsm, unmarked, List.map_append, List.map_cons, List.map_nil]

/-- The tests of STEP (R204) read the channel and the azimuth only, so clearing the flags changes no branch. -/
theorem stepPoint_unmarked (cfg : Cfg) (a : Asm) (p : Point) :
    stepPoint cfg (unmarkedAsm a) (unmarked p) = unmarkedResult (stepPoint cfg a p) := by
  have hcolumn : columnBoundary (unmarkedAsm a) (unmarked p) = columnBoundary a p := rfl
  have hrevolution : revolutionBoundary (unmarkedAsm a) (unmarked p) = revolutionBoundary a p := rfl
  have hflush : flushIfBoundary cfg (unmarkedAsm a) (unmarked p) = unmarkedResult (flushIfBoundary cfg a p) := by
    simp only [flushIfBoundary, hcolumn, flushColumn_unmarked, apply_ite unmarkedResult, unmarkedResult_ok]
  unfold stepPoint
  rw [hflush, hrevolution]
  cases flushIfBoundary cfg a p with
  | raise e => rfl
  | ok flushed =>
    simp only [unmarkedResult_ok, finaliseIfBoundary_unmarked, appendPoint_unmarked]

/-! ### Clearing the validity flags commutes with RUN and the push -/

/-- The result of RUN with every validity flag cleared. -/
def unmarkedRun (r : RunResult) : RunResult := { r with asm := unmarkedAsm r.asm }

theorem runQueue_unmarked (cfg : Cfg) (queue : List Point) (a : Asm) :
    runQueue cfg (queue.map unmarked) (unmarkedAsm a) = unmarkedRun (runQueue cfg queue a) := by
  induction queue generalizing a with
  | nil => rfl
  | cons p rest ih =>
    rw [List.map_cons]
    cases hf : a.frameValid with
    | true =>
      rw [runQueue_cons_frame cfg p rest a hf, runQueue_cons_frame cfg _ _ (unmarkedAsm a) hf]
      rfl
    | false =>
      have hstep := stepPoint_unmarked cfg a p
      cases hs : stepPoint cfg a p with
      | raise e =>
        rw [hs] at hstep
        rw [runQueue_cons_raise cfg p rest a e hf hs, runQueue_cons_raise cfg _ _ (unmarkedAsm a) e hf hstep]
        rfl
      | ok a' =>
        rw [hs] at hstep
        rw [runQueue_cons_ok cfg p rest a a' hf hs, runQueue_cons_ok cfg _ _ (unmarkedAsm a) _ hf hstep, ih]

/-- The end of a rule with every validity flag cleared. -/
def unmarkedReply : Reply → Reply
  | .complete s out => .complete (unmarkedState s) (unmarkedOutput out)
  | .raise s e => .raise (unmarkedState s) e
  | .fault f => .fault f
  | .refused r => .refused r

theorem emittedFrame_unmarked (a : Asm) : emittedFrame (unmarkedAsm a) = (emittedFrame a).map unmarkedFrame := by
  unfold emittedFrame
  rw [apply_ite (Option.map unmarkedFrame)]
  rfl

theorem feed_unmarked (dualsel : Bool) (p : Pts) : feed dualsel (unmarkedPts p) = (feed dualsel p).map unmarked := by
  cases p with
  | none => rfl
  | single points => rfl
  | dual pairs => cases dualsel <;> simp [feed, unmarkedPts]

theorem runBatch_unmarked (batch : List Point) (s : State) :
    runBatch (batch.map unmarked) (unmarkedState s) = unmarkedReply (runBatch batch s) := by
  have hrun : runQueue s.cfg ((clearFrame (unmarkedAsm s.asm)).inq ++ batch.map unmarked)
        (clearFrame (unmarkedAsm s.asm)) =
      unmarkedRun (runQueue s.cfg ((clearFrame s.asm).inq ++ batch) (clearFrame s.asm)) := by
    rw [← runQueue_unmarked, List.map_append]
    rfl
  have hcfg : (unmarkedState s).cfg = s.cfg := rfl
  simp only [runBatch, unmarkedState_asm, hcfg, hrun]
  generalize runQueue s.cfg ((clearFrame s.asm).inq ++ batch) (clearFrame s.asm) = r
  obtain ⟨a, _ | e⟩ := r
  · simp only [unmarkedRun, emittedFrame_unmarked]
    rfl
  · rfl

/-- The capacity check counts points. -/
theorem withRoom_unmarked (batch : List Point) (s : State) (accepted : Reply) :
    withRoom (batch.map unmarked) (unmarkedState s) (unmarkedReply accepted) =
      unmarkedReply (withRoom batch s accepted) := by
  have hlength : (unmarkedState s).asm.inq.length = s.asm.inq.length := List.length_map _
  simp only [withRoom, hlength, List.length_map, apply_ite unmarkedReply]
  rfl

/-- A push of either source in terms of the points it feeds: the check, then the run. -/
theorem acceptedRun_unmarked (batch : List Point) (s s1 : State) :
    withRoom (batch.map unmarked) (unmarkedState s) (runBatch (batch.map unmarked) (unmarkedState s1)) =
      unmarkedReply (withRoom batch s (runBatch batch s1)) := by
  rw [runBatch_unmarked, withRoom_unmarked]

theorem pushConverted_unmarked (s : State) : pushConverted (unmarkedState s) = unmarkedReply (pushConverted s) := by
  have hpts : (unmarkedState s).pts = unmarkedPts s.pts := rfl
  unfold pushConverted
  rw [hpts]
  cases s.pts with
  | none => rfl
  | single points => exact acceptedRun_unmarked points s { s with pts := .none }
  | dual pairs =>
    have hrun := acceptedRun_unmarked (feed s.dualsel (.dual pairs)) s { s with pts := .none }
    rw [← feed_unmarked] at hrun
    exact hrun

theorem pushPoints_unmarked (src : PushSource) (s : State) :
    pushPoints src (unmarkedState s) = unmarkedReply (pushPoints src s) := by
  cases hf : s.asm.fatal with
  | true =>
    rw [pushPoints_of_fatal src hf, pushPoints_of_fatal src (s := unmarkedState s) hf]
    rfl
  | false =>
    have hf' : (unmarkedState s).asm.fatal = false := hf
    unfold pushPoints
    rw [if_neg (Bool.eq_false_iff.mp hf), if_neg (Bool.eq_false_iff.mp hf')]
    cases src with
    | pts => exact pushConverted_unmarked s
    | host => exact acceptedRun_unmarked s.payload.pts s s

/-- The completion registers hold no point. -/
theorem finish_unmarked {r : Reply} {t : State} (h : finish r = .next t) :
    finish (unmarkedReply r) = .next (unmarkedState t) := by
  rcases (finish_next_iff r t).mp h with ⟨s, out, rfl, rfl⟩ | ⟨s, e, rfl, rfl⟩ <;> rfl

/-- Settles O41: clearing the flags commutes with the push and with its completion. -/
theorem validityIsNotExamined : Obligations.ValidityIsNotExamined := by
  intro src s t h
  rw [exec_asmPush, pushPoints_unmarked]
  exact finish_unmarked h

end Sys2Proof.Proofs
end

section
/-!
PROOFS. The system operations (44_system.md). The registers of 10_state.md R23 are compared with the statements'
register file as a whole, word by word; a `CSR.*` operation is the check of its register number and then that read or
a write of one of two registers.
-/

namespace Sys2Proof.Machine

open Sys2Proof

/-! ### Command words of the formats RA and RW (30_encoding.md R100) -/

/-- A word of format RW gives the register number and the value. -/
theorem formatRW_packWord {op : BitVec 8} {r : Nat} (i : Nat → BitVec 12 → Instr) (hr : r < 4096) (v : BitVec 12) :
    formatRW (packWord op (BitVec.ofNat 12 r) v) i = .ok (i r v) := by
  rw [formatRW, aBits_packWord, bBits_packWord, BitVec.toNat_ofNat, Nat.mod_eq_of_lt hr]

theorem decode_of_op_csrRd {w : Word} (h : (opBits w).toNat = 0x04) : decode w = formatA w .csrRd := by
  simp only [decode, h]

theorem decode_of_op_csrWr {w : Word} (h : (opBits w).toNat = 0x05) : decode w = formatRW w .csrWr := by
  simp only [decode, h]

theorem decode_csrRd {r : Nat} (hr : r < 4096) :
    decode (BitVec.ofNat 32 (0x04 * 2 ^ 24 + r * 2 ^ 12)) = .ok (.csrRd r) := by
  have hword := ofNat_fields_eq_packWord (op := 0x04) hr (b := 0) (by decide)
  rw [Nat.add_zero] at hword
  rw [hword, decode_of_op_csrRd (toNat_opBits_packWord (by decide) _ _)]
  exact formatA_packWord .csrRd hr

theorem decode_csrWr {r : Nat} (hr : r < 4096) (v : BitVec 12) :
    decode (BitVec.ofNat 32 (0x05 * 2 ^ 24 + r * 2 ^ 12 + v.toNat)) = .ok (.csrWr r v) := by
  rw [ofNat_fields_eq_packWord hr v.isLt, BitVec.ofNat_toNat, BitVec.setWidth_eq,
    decode_of_op_csrWr (toNat_opBits_packWord (by decide) _ _)]
  exact formatRW_packWord .csrWr hr v

/-! ### The check of the register number (44_system.md R243, R244) -/

theorem unassignedRegister_eq_true_iff (r : Nat) : unassignedRegister r = true ↔ 0x11 < r := decide_eq_true_iff

theorem exec_csrRd_of_assigned {r : Nat} (s : State) (h : r ≤ 0x11) :
    exec (.csrRd r) s = finish (completeScalar s ((readRegister s r).setWidth 64)) :=
  congrArg finish (if_neg fun hr => h.not_gt ((unassignedRegister_eq_true_iff r).mp hr))

theorem exec_csrRd_of_unassigned {r : Nat} (s : State) (h : 0x11 < r) :
    exec (.csrRd r) s = finish (.raise s (mkErr .indexOutOfRange 4 0x12 r)) :=
  congrArg finish (if_pos ((unassignedRegister_eq_true_iff r).mpr h))

theorem exec_csrWr_of_assigned {r : Nat} (v : BitVec 12) (s : State) (h : r ≤ 0x11) :
    exec (.csrWr r v) s = finish (.complete (writeRegister s r v) .none) :=
  congrArg finish (if_neg fun hr => h.not_gt ((unassignedRegister_eq_true_iff r).mp hr))

theorem exec_csrWr_of_unassigned {r : Nat} (v : BitVec 12) (s : State) (h : 0x11 < r) :
    exec (.csrWr r v) s = finish (.raise s (mkErr .indexOutOfRange 4 0x12 r)) :=
  congrArg finish (if_pos ((unassignedRegister_eq_true_iff r).mpr h))

/-! ### A write (44_system.md R244) -/

/-- Register 0 is `CTRL`: `POLICY` from `v[1:0]`, `DUALSEL` from `v[2]`. -/
theorem writeRegister_ctrl (s : State) (v : BitVec 12) :
    writeRegister s 0x00 v = { s with policy := policyOf (v.extractLsb' 0 2), dualsel := v.getLsbD 2 } := rfl

/-- Register 1 is `RETMODE`, from `v[7:0]`. -/
theorem writeRegister_retmode (s : State) (v : BitVec 12) :
    writeRegister s 0x01 v = { s with retmode := v.extractLsb' 0 8 } := rfl

/-- The other registers are read-only. -/
theorem writeRegister_of_two_le (s : State) {r : Nat} (v : BitVec 12) (h : 2 ≤ r) : writeRegister s r v = s := by
  unfold writeRegister
  split
  · omega
  · omega
  · rfl

/-- The low field of a value is the value modulo its size. -/
theorem extractLsb'_zero_eq_ofNat {w : Nat} (n : Nat) (v : BitVec w) :
    v.extractLsb' 0 n = BitVec.ofNat n (v.toNat % 2 ^ n) := by
  apply BitVec.eq_of_toNat_eq
  simp

/-- A bit of a value is a digit of its number. -/
theorem getLsbD_eq_decide (v : BitVec 12) (n : Nat) : v.getLsbD n = decide (v.toNat / 2 ^ n % 2 = 1) :=
  Nat.testBit_eq_decide_div_mod_eq

end Sys2Proof.Machine

namespace Sys2Proof.Proofs

open Sys2Proof Sys2Proof.Machine Sys2Proof.Claims

/-! ### The registers of the statements are those of the model -/

theorem policyNumber_eq_policyCode (p : Policy) : policyNumber p = policyCode p := by cases p <;> rfl

theorem shapeNumber_eq_shapeCode (p : Pts) : shapeNumber p = shapeCode p := by cases p <;> rfl

theorem pointCount_eq_resultLength (p : Pts) : pointCount p = resultLength p := by cases p <;> rfl

theorem flagBit_eq_bit (b : Bool) : flagBit b = bit b := rfl

/-- `CTRL` as its two fields. -/
theorem ctrlWord_eq (s : State) : ctrlWord s = BitVec.ofNat 32 (policyCode s.policy + 4 * bit s.dualsel) := by
  rw [ctrlWord, policyNumber_eq_policyCode, flagBit_eq_bit]

/-- `STATUS` as its six fields. -/
theorem statusWord_eq (s : State) :
    statusWord s =
      BitVec.ofNat 32
        (bit s.pktOk + 2 * bit s.calOk + 4 * shapeCode s.pts + 16 * bit s.asm.frameValid + 32 * bit s.asm.fatal
          + 64 * bit s.asm.prevValid) := by
  simp only [statusWord, shapeNumber_eq_shapeCode, flagBit_eq_bit]

/-- A value of at most a register's width fills it with zeros above. -/
theorem setWidth_eq_ofNat {n : Nat} (v : BitVec n) : v.setWidth 32 = BitVec.ofNat 32 v.toNat :=
  (BitVec.ofNat_toNat 32 v).symm

theorem word_eq_ofNat (v : Word) : v = BitVec.ofNat 32 v.toNat := (BitVec.ofNat_toNat 32 v).symm

/-- A value that reads 0 while its flag is clear is the product with the flag. -/
theorem gated_ofNat (flag : Bool) (n : Nat) : gated flag (BitVec.ofNat 32 n) = BitVec.ofNat 32 (bit flag * n) := by
  cases flag <;> simp [gated, bit]

theorem gated_word (flag : Bool) (v : Word) : gated flag v = BitVec.ofNat 32 (bit flag * v.toNat) := by
  rw [← gated_ofNat, ← word_eq_ofNat]

theorem gated_setWidth (flag : Bool) {n : Nat} (v : BitVec n) :
    gated flag (v.setWidth 32) = BitVec.ofNat 32 (bit flag * v.toNat) := by
  rw [← gated_ofNat, setWidth_eq_ofNat]

/-- The high word of `RES` is its quotient. -/
theorem extractLsb'_high_eq_ofNat (v : BitVec 64) : v.extractLsb' 32 32 = BitVec.ofNat 32 (v.toNat / 2 ^ 32) := by
  apply BitVec.eq_of_toNat_eq
  simp [Nat.shiftRight_eq_div_pow]

/-- A register holds a count modulo its size. -/
theorem ofNat_mod_register (n : Nat) : BitVec.ofNat 32 (n % 2 ^ 32) = BitVec.ofNat 32 n := by
  apply BitVec.eq_of_toNat_eq
  simp

/-- The register file has the eighteen assigned numbers. -/
theorem assigned_of_registerFile {s : State} {r value : Nat} (h : (registerFile s)[r]? = some value) : r ≤ 0x11 := by
  obtain ⟨hr, -⟩ := List.getElem?_eq_some_iff.mp h
  exact Nat.le_of_lt_succ hr

/-- Each register reads the word of its number in the register file (10_state.md R23). -/
theorem readRegister_of_registerFile {s : State} {r value : Nat} (h : (registerFile s)[r]? = some value) :
    readRegister s r = BitVec.ofNat 32 value := by
  match r, h with
  | 0x00, rfl => exact ctrlWord_eq s
  | 0x01, rfl => exact setWidth_eq_ofNat s.retmode
  | 0x02, rfl => exact statusWord_eq s
  | 0x03, rfl => rfl
  | 0x04, rfl => exact word_eq_ofNat s.err.info0
  | 0x05, rfl => exact word_eq_ofNat s.err.info1
  | 0x06, rfl => exact extractLsb'_zero_eq_ofNat 32 s.res
  | 0x07, rfl => exact extractLsb'_high_eq_ofNat s.res
  | 0x08, rfl => exact congrArg (BitVec.ofNat 32) (pointCount_eq_resultLength s.pts)
  | 0x09, rfl => exact gated_setWidth s.asm.frameValid s.asm.frame.height
  | 0x0A, rfl => exact gated_word s.asm.frameValid s.asm.frame.width
  | 0x0B, rfl => exact gated_ofNat s.asm.frameValid s.asm.frame.points.length
  | 0x0C, rfl => exact (ofNat_mod_register (leftCount s.cfg s.asm)).symm
  | 0x0D, rfl => exact word_eq_ofNat s.asm.colcnt
  | 0x0E, rfl => exact setWidth_eq_ofNat s.asm.beamNum
  | 0x0F, rfl => exact word_eq_ofNat s.asm.prevAz
  | 0x10, rfl => exact setWidth_eq_ofNat s.asm.prevCh
  | 0x11, rfl => exact gated_setWidth s.calOk s.cal.num
  | r + 0x12, h => exact absurd (assigned_of_registerFile h) (by omega)

/-- `RES` holds the number of an assigned register whose value fits 32 bits. -/
theorem scalarResult_csrRd {s : State} {r value : Nat} (h : (registerFile s)[r]? = some value)
    (hfits : value < 2 ^ 32) : scalarResult (exec (.csrRd r) s) s value := by
  have hr := assigned_of_registerFile h
  have hvalue : ((BitVec.ofNat 32 value).setWidth 64).toNat = value := by
    rw [BitVec.toNat_setWidth_of_le (by decide), BitVec.toNat_ofNat, Nat.mod_eq_of_lt hfits]
  have hread := scalarResult_completeScalar s ((BitVec.ofNat 32 value).setWidth 64)
  rw [hvalue] at hread
  rwa [exec_csrRd_of_assigned s hr, readRegister_of_registerFile h]

/-! ### The fields of a written value -/

theorem policyOf_policyCode (p : Policy) : policyOf (BitVec.ofNat 2 (policyCode p)) = p := by cases p <;> rfl

/-- A write to `CTRL` sets the policy whose number is `v[1:0]` and the flag `v[2]`. -/
theorem writeRegister_ctrl_of_policyCode (s : State) {v : BitVec 12} {p : Policy} (h : policyCode p = v.toNat % 4) :
    writeRegister s 0x00 v = { s with policy := p, dualsel := decide (v.toNat / 4 % 2 = 1) } := by
  have hpolicy : policyOf (v.extractLsb' 0 2) = p := by
    rw [extractLsb'_zero_eq_ofNat, ← policyOf_policyCode p, h]
    rfl
  rw [writeRegister_ctrl, hpolicy, getLsbD_eq_decide]
  rfl

/-! ### The statements -/

/-- Settles O7: the rule writes nothing before its completion. -/
theorem nopWritesOnlyTheCompletion : Obligations.NopWritesOnlyTheCompletion :=
  ⟨by decide, fun s => finish_complete s .none⟩

/-- Settles O10: while FATAL is set, every operation but the two resets keeps the assembler. -/
theorem asmResetStartsANewStream : Obligations.AsmResetStartsANewStream := by
  refine ⟨by decide, fun s => finish_complete s.assemblerReset .none, fun i s t h hs ht => ?_⟩
  by_contra hi
  obtain ⟨hasm, hsys⟩ := not_or.mp hi
  rw [exec_asm_of_fatal h hs hasm hsys, hs] at ht
  cases ht

/-- Settles O11: the check of the number, then the register file. -/
theorem csrReadGivesEveryRegister : Obligations.CsrReadGivesEveryRegister := by
  refine ⟨fun r hr => decode_csrRd hr, fun s r => ⟨fun hr => ?_, fun value h hfits => scalarResult_csrRd h hfits⟩⟩
  exact (exec_csrRd_of_unassigned s hr).trans (finish_raise_mkErr s .indexOutOfRange 4 0x12 r)

/-- Settles O12: the check of the number, then the write of `CTRL`, of `RETMODE`, or of nothing. -/
theorem csrWriteReachesTwoRegisters : Obligations.CsrWriteReachesTwoRegisters := by
  refine ⟨fun r v hr => decode_csrWr hr v, fun s v => ⟨fun p hp => ?_, ?_, fun r hr hlast => ?_, fun r hr => ?_⟩⟩
  · rw [exec_csrWr_of_assigned v s (by decide), writeRegister_ctrl_of_policyCode s hp]
    rfl
  · rw [exec_csrWr_of_assigned v s (by decide), writeRegister_retmode, extractLsb'_zero_eq_ofNat]
    rfl
  · rw [exec_csrWr_of_assigned v s hlast, writeRegister_of_two_le s v hr]
    rfl
  · exact (exec_csrWr_of_unassigned v s hr).trans (finish_raise_mkErr s .indexOutOfRange 4 0x12 r)

end Sys2Proof.Proofs
end

section
/-!
PROOFS. The command words (30_encoding.md). Each format of R100 is said twice, once from the operands to the word and
once back; the table of R101 is read off the decoder row by row, and its rows differ in the opcode byte, which every
mask fixes.
-/

namespace Sys2Proof

/-! ### From the operands to the word (30_encoding.md R100) -/

theorem fitsField_iff (n : Nat) : fitsField n = true ↔ n < 4096 := decide_eq_true_iff

/-- A word of format S with `a = 0` gives its source. -/
theorem formatS_packWord {op : BitVec 8} (i : PushSource → Instr) (src : PushSource) :
    formatS (packWord op 0 (sourceNumber src)) i = .ok (i src) := by
  rw [formatS, if_pos (aBits_packWord _ _ _), bBits_packWord]
  cases src <;> rfl

/-- Decoding an encoded operation: the opcode selects the row, and the format of the row gives the operands back. -/
theorem decode_encode {i : Instr} (h : i.wellFormed = true) : decode (encode i) = .ok i := by
  cases i with
  | nop | sysReset | asmReset | pktLoad | calExt | calRes | calNum | cvtLast | cvtStrongest | cvtDual | cvtRuntime
  | proc => rfl
  | pxDist c k | pxRefl c k | pxSig c k | pxNoise c k =>
    obtain ⟨hc, hk⟩ := Bool.and_eq_true_iff.mp h
    rw [encode, decode, opBits_packWord]
    exact Machine.formatCK_packWord _ ((fitsField_iff c).mp hc) ((fitsField_iff k).mp hk)
  | csrRd c | colTs c | colMid c | colFid c | colEnc c | colValid c | colAzdeg c | colAzrad c =>
    rw [encode, decode, opBits_packWord]
    exact Machine.formatA_packWord _ ((fitsField_iff c).mp h)
  | csrWr r v =>
    rw [encode, decode, opBits_packWord]
    exact Machine.formatRW_packWord _ ((fitsField_iff r).mp h) v
  | calBuiltin m =>
    rw [encode, decode, opBits_packWord]
    exact Machine.formatM_packWord _ ((fitsField_iff m).mp h)
  | calGet f k =>
    rw [encode, decode, opBits_packWord]
    exact Machine.formatFK_packWord _ f ((fitsField_iff k).mp h)
  | asmPush src =>
    rw [encode, decode, opBits_packWord]
    exact formatS_packWord _ src

/-! ### From the word to the operands (30_encoding.md R100) -/

/-- A word is the encoding of the well-formed operation that `d` says it is, if `d` says so. -/
def EncodesBack (w : Word) (d : Decoded) : Prop :=
  ∀ i, d = .ok i → i.wellFormed = true ∧ encode i = w

theorem encodesBack_mustBeZero (w : Word) : EncodesBack w .mustBeZero := fun _ h => Decoded.noConfusion h

theorem encodesBack_reservedOpcode (w : Word) : EncodesBack w .reservedOpcode := fun _ h => Decoded.noConfusion h

theorem encodesBack_ok {w : Word} {i : Instr} (hwf : i.wellFormed = true) (henc : encode i = w) :
    EncodesBack w (.ok i) := by
  rintro j ⟨⟩
  exact ⟨hwf, henc⟩

section
variable {w : Word} {op : Nat}

/-- A word from its opcode and its two other fields. -/
theorem packWord_of_op (hop : (opBits w).toNat = op) : packWord (BitVec.ofNat 8 op) (aBits w) (bBits w) = w := by
  rw [← hop, BitVec.ofNat_toNat, BitVec.setWidth_eq, packWord_fields]

theorem fitsField_toNat (v : BitVec 12) : fitsField v.toNat = true := (fitsField_iff _).mpr v.isLt

theorem ofNat_field (v : BitVec 12) : BitVec.ofNat 12 v.toNat = v := by
  rw [BitVec.ofNat_toNat, BitVec.setWidth_eq]

theorem formatZ_encodesBack {i : Instr} (hop : (opBits w).toNat = op) (hwf : i.wellFormed = true)
    (henc : encode i = packWord (BitVec.ofNat 8 op) 0 0) : EncodesBack w (formatZ w i) := by
  unfold formatZ
  split
  · rename_i h
    obtain ⟨ha, hb⟩ := h
    refine encodesBack_ok hwf ?_
    rw [henc, ← packWord_of_op hop, ha, hb]
  · exact encodesBack_mustBeZero w

theorem formatCK_encodesBack {i : Nat → Nat → Instr} (hop : (opBits w).toNat = op)
    (hwf : ∀ c k, (i c k).wellFormed = (fitsField c && fitsField k))
    (henc : ∀ c k, encode (i c k) = packWord (BitVec.ofNat 8 op) (BitVec.ofNat 12 c) (BitVec.ofNat 12 k)) :
    EncodesBack w (formatCK w i) := by
  refine encodesBack_ok ?_ ?_
  · rw [hwf, fitsField_toNat, fitsField_toNat, Bool.and_self]
  · rw [henc, ofNat_field, ofNat_field, packWord_of_op hop]

theorem formatA_encodesBack {i : Nat → Instr} (hop : (opBits w).toNat = op)
    (hwf : ∀ c, (i c).wellFormed = fitsField c)
    (henc : ∀ c, encode (i c) = packWord (BitVec.ofNat 8 op) (BitVec.ofNat 12 c) 0) :
    EncodesBack w (formatA w i) := by
  unfold formatA
  split
  · rename_i hb
    refine encodesBack_ok ((hwf _).trans (fitsField_toNat _)) ?_
    rw [henc, ofNat_field, ← hb, packWord_of_op hop]
  · exact encodesBack_mustBeZero w

theorem formatM_encodesBack {i : Nat → Instr} (hop : (opBits w).toNat = op)
    (hwf : ∀ m, (i m).wellFormed = fitsField m)
    (henc : ∀ m, encode (i m) = packWord (BitVec.ofNat 8 op) 0 (BitVec.ofNat 12 m)) :
    EncodesBack w (formatM w i) := by
  unfold formatM
  split
  · rename_i ha
    refine encodesBack_ok ((hwf _).trans (fitsField_toNat _)) ?_
    rw [henc, ofNat_field, ← ha, packWord_of_op hop]
  · exact encodesBack_mustBeZero w

theorem formatRW_encodesBack {i : Nat → BitVec 12 → Instr} (hop : (opBits w).toNat = op)
    (hwf : ∀ r v, (i r v).wellFormed = fitsField r)
    (henc : ∀ r v, encode (i r v) = packWord (BitVec.ofNat 8 op) (BitVec.ofNat 12 r) v) :
    EncodesBack w (formatRW w i) := by
  refine encodesBack_ok ((hwf _ _).trans (fitsField_toNat _)) ?_
  rw [henc, ofNat_field, packWord_of_op hop]

/-- The four values of the field select are the four fields. -/
theorem formatFK_encodesBack {i : CalField → Nat → Instr} (hop : (opBits w).toNat = op)
    (hwf : ∀ f k, (i f k).wellFormed = fitsField k)
    (henc : ∀ f k, encode (i f k) = packWord (BitVec.ofNat 8 op) (fieldNumber f) (BitVec.ofNat 12 k)) :
    EncodesBack w (formatFK w i) := by
  have back (f : CalField) (hf : (aBits w).toNat = (fieldNumber f).toNat) :
      EncodesBack w (.ok (i f (bBits w).toNat)) := by
    refine encodesBack_ok ((hwf _ _).trans (fitsField_toNat _)) ?_
    rw [henc, ofNat_field, ← BitVec.eq_of_toNat_eq hf, packWord_of_op hop]
  unfold formatFK
  split
  · exact back .elev ‹_›
  · exact back .azoff ‹_›
  · exact back .voff ‹_›
  · exact back .hoff ‹_›
  · exact encodesBack_mustBeZero w

/-- The two values of the source select are the two sources. -/
theorem formatS_encodesBack {i : PushSource → Instr} (hop : (opBits w).toNat = op)
    (hwf : ∀ src, (i src).wellFormed = true)
    (henc : ∀ src, encode (i src) = packWord (BitVec.ofNat 8 op) 0 (sourceNumber src)) :
    EncodesBack w (formatS w i) := by
  have back (src : PushSource) (ha : aBits w = 0) (hs : (bBits w).toNat = (sourceNumber src).toNat) :
      EncodesBack w (.ok (i src)) := by
    refine encodesBack_ok (hwf src) ?_
    rw [henc, ← BitVec.eq_of_toNat_eq hs, ← ha, packWord_of_op hop]
  unfold formatS
  split
  · rename_i ha
    split
    · exact back .pts ha ‹_›
    · exact back .host ha ‹_›
    · exact encodesBack_mustBeZero w
  · exact encodesBack_mustBeZero w

end

/-- Every row of the decoder, in the order of R101. -/
theorem decode_encodesBack (w : Word) : EncodesBack w (decode w) := by
  unfold decode
  split
  case h_1 h | h_2 h | h_3 h | h_6 h | h_19 h | h_21 h | h_22 h | h_23 h | h_24 h | h_25 h | h_26 h | h_28 h =>
    exact formatZ_encodesBack h rfl rfl
  case h_4 h | h_11 h | h_12 h | h_13 h | h_14 h | h_15 h | h_16 h | h_17 h =>
    exact formatA_encodesBack h (fun _ => rfl) (fun _ => rfl)
  case h_7 h | h_8 h | h_9 h | h_10 h => exact formatCK_encodesBack h (fun _ _ => rfl) (fun _ _ => rfl)
  case h_5 h => exact formatRW_encodesBack h (fun _ _ => rfl) (fun _ _ => rfl)
  case h_18 h => exact formatM_encodesBack h (fun _ => rfl) (fun _ => rfl)
  case h_20 h => exact formatFK_encodesBack h (fun _ _ => rfl) (fun _ _ => rfl)
  case h_27 h => exact formatS_encodesBack h (fun _ => rfl) (fun _ => rfl)
  case h_29 => exact encodesBack_reservedOpcode w

end Sys2Proof

namespace Sys2Proof.Proofs

open Sys2Proof Sys2Proof.Machine Sys2Proof.Claims Sys2Proof.Laws

/-! ### The rows of the opcode table (30_encoding.md R101) -/

/-- Every encoded operation matches its row of the table. -/
theorem encode_matches_row (i : Instr) : encode i &&& TableRow.rowMask i = TableRow.rowMatch i := by
  cases i with
  | csrRd c | colTs c | colMid c | colFid c | colEnc c | colValid c | colAzdeg c | colAzrad c =>
    exact (TableRow.opcode_and_b_fixed _ _ _).trans rfl
  | csrWr r v => exact TableRow.csrWr r v
  | pxDist c k | pxRefl c k | pxSig c k | pxNoise c k => exact (TableRow.opcode_fixed _ _ _).trans rfl
  | calBuiltin m => exact TableRow.calBuiltin m
  | calGet f k => exact TableRow.calGet f k
  | asmPush src => exact TableRow.asmPush src
  | nop | sysReset | asmReset | pktLoad | calExt | calRes | calNum | cvtLast | cvtStrongest | cvtDual | cvtRuntime
  | proc => rfl

theorem row_mem_opcodeTable (i : Instr) : (TableRow.rowMask i, TableRow.rowMatch i) ∈ opcodeTable := by
  cases i <;> simp [opcodeTable, TableRow.rowMask, TableRow.rowMatch]

section
variable {w : Word} {op : BitVec 8}

theorem packWord_inj {op' : BitVec 8} {a b a' b' : BitVec 12} (h : packWord op a b = packWord op' a' b') :
    op = op' ∧ a = a' ∧ b = b' :=
  ⟨by simpa [opBits_packWord] using congrArg opBits h, by simpa [aBits_packWord] using congrArg aBits h,
    by simpa [bBits_packWord] using congrArg bBits h⟩

/-- A row that fixes the whole word. -/
theorem decodes_of_whole_row {m : Word} {i : Instr} (hm : decode m = .ok i) (h : w &&& 0xFFFFFFFF = m) :
    ∃ i, decode w = .ok i := by
  have hw : w = m := (BitVec.and_allOnes (x := w)).symm.trans h
  exact ⟨i, hw ▸ hm⟩

/-- A row that fixes the opcode (formats CK and RW). -/
theorem decodes_of_opcode_row (op : BitVec 8) (hdec : ∀ w, opBits w = op → ∃ i, decode w = .ok i)
    (h : w &&& 0xFF000000 = packWord op 0 0) : ∃ i, decode w = .ok i := by
  rw [← packWord_fields w, TableRow.opcode_fixed] at h
  obtain ⟨hop, -, -⟩ := packWord_inj h
  exact hdec w hop

/-- A row that fixes the opcode and `b` (formats CC and RA). -/
theorem decodes_of_opcode_b_row (op : BitVec 8) {i : Nat → Instr}
    (hdec : ∀ w, opBits w = op → decode w = formatA w i)
    (h : w &&& 0xFF000FFF = packWord op 0 0) : ∃ i, decode w = .ok i := by
  rw [← packWord_fields w, TableRow.opcode_and_b_fixed] at h
  obtain ⟨hop, -, hb⟩ := packWord_inj h
  exact ⟨_, (hdec w hop).trans (if_pos hb)⟩

/-- The row of `CAL.BUILTIN` fixes the opcode and `a` (format M). -/
theorem decodes_of_calBuiltin_row (h : w &&& 0xFFFFF000 = 0x20000000) : ∃ i, decode w = .ok i := by
  rw [← packWord_fields w, TableRow.opcode_and_a_fixed] at h
  obtain ⟨hop, ha, -⟩ := packWord_inj (op' := 0x20) (a' := 0) (b' := 0) h
  exact ⟨_, (decode_of_op_calBuiltin (congrArg BitVec.toNat hop)).trans (if_pos ha)⟩

/-- With `a[11:2]` clear, `a` is the number of a field. -/
theorem exists_fieldNumber {a : BitVec 12} (h : a &&& 0xFFC = 0) : ∃ f, a = fieldNumber f := by
  have hlt : a.toNat < 2 ^ 2 := by
    refine Nat.lt_pow_two_of_testBit _ fun i hi => ?_
    by_cases h12 : i < 12
    · have hmask : (0xFFC : BitVec 12).getLsbD i = true := by
        interval_cases i <;> rfl
      have hbit : (a &&& 0xFFC).getLsbD i = false := by
        rw [h]
        exact BitVec.getLsbD_zero
      rwa [BitVec.getLsbD_and, hmask, Bool.and_true] at hbit
    · exact BitVec.testBit_toNat a ▸ BitVec.getLsbD_of_ge a i (by omega)
  have hcases : a.toNat = 0 ∨ a.toNat = 1 ∨ a.toNat = 2 ∨ a.toNat = 3 := by omega
  rcases hcases with h | h | h | h
  · exact ⟨.elev, BitVec.eq_of_toNat_eq h⟩
  · exact ⟨.azoff, BitVec.eq_of_toNat_eq h⟩
  · exact ⟨.voff, BitVec.eq_of_toNat_eq h⟩
  · exact ⟨.hoff, BitVec.eq_of_toNat_eq h⟩

/-- The row of `CAL.GET` fixes the opcode and `a[11:2]` (format FK). -/
theorem decodes_of_calGet_row (h : w &&& 0xFFFFC000 = 0x22000000) : ∃ i, decode w = .ok i := by
  rw [← packWord_fields w, TableRow.opcode_and_high_a_fixed] at h
  obtain ⟨hop, ha, -⟩ := packWord_inj (op' := 0x22) (a' := 0) (b' := 0) h
  obtain ⟨f, hf⟩ := exists_fieldNumber ha
  refine ⟨.calGet f (bBits w).toNat, ?_⟩
  have hw : w = packWord 0x22 (fieldNumber f) (BitVec.ofNat 12 (bBits w).toNat) := by
    rw [ofNat_field, ← hf, ← hop, packWord_fields]
  rw [decode_of_op_calGet (congrArg BitVec.toNat hop), hw]
  exact (formatFK_packWord _ f (bBits _).isLt).trans (by rw [bBits_packWord, ofNat_field])

/-- The row of `ASM.PUSH` leaves the lowest bit free (format S): the word is that of one of the two sources. -/
theorem decodes_of_asmPush_row (h : w &&& 0xFFFFFFFE = 0x40000000) : ∃ i, decode w = .ok i := by
  have hsplit : w = (w &&& 0xFFFFFFFE) ||| (w &&& 1) := by
    rw [← BitVec.and_or_distrib_left]
    exact (BitVec.and_allOnes (x := w)).symm
  have hbit : w &&& 1 = 0 ∨ w &&& 1 = 1 := by
    rcases Nat.mod_two_eq_zero_or_one w.toNat with h | h
    · exact .inl (BitVec.eq_of_toNat_eq (by simp [h]))
    · exact .inr (BitVec.eq_of_toNat_eq (by simp [h]))
  rw [h] at hsplit
  rcases hbit with hb | hb <;> rw [hb] at hsplit
  · exact ⟨.asmPush .pts, hsplit ▸ rfl⟩
  · exact ⟨.asmPush .host, hsplit ▸ rfl⟩

end

/-- A word that matches a row decodes: row by row, in the table's order. -/
theorem decodes_of_row (w : Word) : ∀ row ∈ opcodeTable, w &&& row.1 = row.2 → ∃ i, decode w = .ok i := by
  have pixel (op : BitVec 8) {i : Nat → Nat → Instr} (hrow : ∀ w, opBits w = op → decode w = formatCK w i) :=
    decodes_of_opcode_row (w := w) op fun w h => ⟨_, hrow w h⟩
  simp only [opcodeTable, List.forall_mem_cons]
  exact ⟨decodes_of_whole_row rfl, decodes_of_whole_row rfl, decodes_of_whole_row rfl,
    decodes_of_opcode_b_row 0x04 (fun w h => by simp only [decode, h]; rfl),
    decodes_of_opcode_row 0x05 (fun w h => ⟨_, decode_of_op_csrWr (congrArg BitVec.toNat h)⟩),
    decodes_of_whole_row rfl,
    pixel 0x11 (fun w h => by simp only [decode, h]; rfl), pixel 0x12 (fun w h => by simp only [decode, h]; rfl),
    pixel 0x13 (fun w h => by simp only [decode, h]; rfl), pixel 0x14 (fun w h => by simp only [decode, h]; rfl),
    decodes_of_opcode_b_row 0x18 (fun w h => by simp only [decode, h]; rfl),
    decodes_of_opcode_b_row 0x19 (fun w h => by simp only [decode, h]; rfl),
    decodes_of_opcode_b_row 0x1A (fun w h => by simp only [decode, h]; rfl),
    decodes_of_opcode_b_row 0x1B (fun w h => by simp only [decode, h]; rfl),
    decodes_of_opcode_b_row 0x1C (fun w h => by simp only [decode, h]; rfl),
    decodes_of_opcode_b_row 0x1D (fun w h => by simp only [decode, h]; rfl),
    decodes_of_opcode_b_row 0x1E (fun w h => by simp only [decode, h]; rfl),
    decodes_of_calBuiltin_row, decodes_of_whole_row rfl, decodes_of_calGet_row, decodes_of_whole_row rfl,
    decodes_of_whole_row rfl, decodes_of_whole_row rfl, decodes_of_whole_row rfl, decodes_of_whole_row rfl,
    decodes_of_whole_row rfl, decodes_of_asmPush_row, decodes_of_whole_row rfl, fun _ h => absurd h List.not_mem_nil⟩

/-- The words that decode are those that match a row. -/
theorem decodes_iff_row (w : Word) : (∃ i, decode w = .ok i) ↔ ∃ row ∈ opcodeTable, w &&& row.1 = row.2 := by
  constructor
  · rintro ⟨i, hi⟩
    obtain ⟨-, rfl⟩ := decode_encodesBack w i hi
    exact ⟨_, row_mem_opcodeTable i, encode_matches_row i⟩
  · rintro ⟨row, hmem, h⟩
    exact decodes_of_row w row hmem h

theorem opBits_and (w m : Word) : opBits (w &&& m) = opBits w &&& opBits m := BitVec.extractLsb'_and

/-- Every mask fixes the opcode byte, so a row that a word matches has the word's opcode. -/
theorem opBits_of_row {w : Word} {row : Word × Word} (hmem : row ∈ opcodeTable) (h : w &&& row.1 = row.2) :
    opBits row.2 = opBits w := by
  have hmask : ∀ row ∈ opcodeTable, opBits row.1 = BitVec.allOnes 8 := by
    simp [opcodeTable, opBits]
  rw [← h, opBits_and, hmask row hmem, BitVec.and_allOnes]

/-- The rows stand in the order of their opcode bytes. -/
theorem opcodes_rise : (opcodeTable.map fun row => (opBits row.2).toNat).Pairwise (· < ·) := by decide

theorem row_unique {w : Word} {row row' : Word × Word} (hmem : row ∈ opcodeTable) (hmem' : row' ∈ opcodeTable)
    (h : w &&& row.1 = row.2) (h' : w &&& row'.1 = row'.2) : row = row' := by
  have hop := (opBits_of_row hmem h).trans (opBits_of_row hmem' h').symm
  exact List.inj_on_of_nodup_map (opcodes_rise.imp fun hlt => hlt.ne) hmem hmem' (congrArg BitVec.toNat hop)

/-! ### The statements about command words -/

/-- Settles O1: the formats one by one. -/
theorem decodeOfEncodeIsTheInstruction : Obligations.DecodeOfEncodeIsTheInstruction :=
  fun _ h => decode_encode h

/-- Settles O2: the rows of the decoder one by one. -/
theorem decodedWordIsItsEncoding : Obligations.DecodedWordIsItsEncoding :=
  fun w i h => decode_encodesBack w i h

/-- Settles O3: a word that decodes is an encoding, and an encoding matches its row; rows differ in the opcode. -/
theorem decodeAcceptsExactlyTheTable : Obligations.DecodeAcceptsExactlyTheTable :=
  ⟨decodes_iff_row, fun _ _ hmem _ hmem' h h' => row_unique hmem hmem' h h'⟩

/-- Settles O4: eighteen words, by evaluation. -/
theorem specWordsDecode : Obligations.SpecWordsDecode := by
  unfold Obligations.SpecWordsDecode
  decide

/-! ### One step (10_state.md R20, R44) -/

theorem step_of_cmds {s : State} {cmd : Command} {rest : List Command} (h : s.cmds = cmd :: rest) :
    step s = closeOperation (performWord cmd.word (s.accept cmd rest)) := by
  rw [step, issue, h]

theorem step_of_no_cmds {s : State} (h : s.cmds = []) : step s = .next s := by
  rw [step, issue, h]

theorem performWord_of_ok {w : Word} {i : Instr} (h : decode w = .ok i) (s : State) : performWord w s = exec i s := by
  rw [performWord, h]

theorem performWord_of_illegal {w : Word} (h : ∀ i, decode w ≠ .ok i) (s : State) :
    performWord w s = illegalCommand w s := by
  rcases performWord_cases w s with ⟨i, hi, -⟩ | ⟨-, hw⟩
  · exact absurd hi (h i)
  · exact hw

/-- Settles O5: the step takes the command, performs its word and closes the operation. -/
theorem stepRunsTheDecodedInstruction : Obligations.StepRunsTheDecodedInstruction := by
  refine ⟨fun s cmd rest i hcmds hdec _ => ?_, fun s => step_of_no_cmds⟩
  rw [step_of_cmds hcmds, performWord_of_ok hdec]
  change closeOperation (exec i (s.accept cmd rest)) = match exec i (s.accept cmd rest) with
    | .next t => _
    | .fault f => _
    | .refused r => _
  cases exec i (s.accept cmd rest) <;> rfl

/-- Settles O6: a word that matches no row does not decode, and so raises IllegalCommand. -/
theorem illegalWordCompletesWithIllegalCommand : Obligations.IllegalWordCompletesWithIllegalCommand := by
  intro s cmd rest hcmds hrow
  have hillegal (i : Instr) : decode cmd.word ≠ .ok i := fun hi => by
    obtain ⟨row, hmem, h⟩ := (decodes_iff_row cmd.word).mp ⟨i, hi⟩
    exact hrow row hmem h
  rw [step_of_cmds hcmds, performWord_of_illegal hillegal]
  rfl

/-- Settles O8: the reset state of the same configuration, with the host's two fields. -/
theorem sysResetWritesEveryResetValue : Obligations.SysResetWritesEveryResetValue :=
  ⟨rfl, fun s => ⟨s.systemReset.completed .none, rfl, resetOf_atReset s.cfg, rfl, rfl, rfl, rfl⟩⟩

end Sys2Proof.Proofs
end

section
/-!
PROOFS. What every operation does and leaves unchanged (60_exceptions.md R262, R263, R270). The rule of each operation
is inverted once: its frame, what it returns, the errors it can raise, and its one refusal. The statements about all
operations are read off that.
-/

namespace Sys2Proof.Machine

open Sys2Proof Sys2Proof.Claims

/-! ### The frame and the end of a rule -/

/-- What the rule of operation `i` has left of `s` in `u`, but for the assembler and the active table. -/
structure OpFrame (i : Instr) (s u : State) : Prop where
  cfg : u.cfg = s.cfg
  cmds : u.cmds = s.cmds
  payload : u.payload = s.payload
  control : (∀ r v, i ≠ .csrWr r v) → i ≠ .sysReset →
    u.policy = s.policy ∧ u.dualsel = s.dualsel ∧ u.retmode = s.retmode
  packet : i ≠ .pktLoad → i ≠ .proc → i ≠ .sysReset → u.pktOk = s.pktOk ∧ u.pkt = s.pkt
  result : i ∉ [Instr.cvtLast, .cvtStrongest, .cvtDual, .cvtRuntime, .asmPush .pts, .proc, .sysReset] →
    u.pts = s.pts
  res : isScalar i = false → i ≠ .sysReset → u.res = s.res

/-- The code of one of the nine kinds (60_exceptions.md R263). -/
def KnownCode (e : ErrRec) : Prop := 1 ≤ e.code.toNat ∧ e.code.toNat ≤ 9

theorem knownCode_mkErr (kind : ErrKind) (sub expected actual : Nat) : KnownCode (mkErr kind sub expected actual) := by
  change 1 ≤ (errCode kind).toNat ∧ (errCode kind).toNat ≤ 9
  cases kind <;> decide

theorem KnownCode.code_ne_zero {e : ErrRec} (h : KnownCode e) : e.code ≠ 0 := fun h0 => by
  obtain ⟨hpos, -⟩ := h
  rw [h0] at hpos
  exact absurd hpos (by decide)

/-- How the rule of operation `i` can end: within its frame, a scalar operation returning `RES` and writing nothing
when it fails, with a new error of a known kind or (the feeders only) the latched one, or with the one refusal. -/
def RuleEnds (i : Instr) (s : State) : Reply → Prop
  | .complete u out => OpFrame i s u ∧ (isScalar i = true → out = .scalar u.res)
  | .raise u e => OpFrame i s u ∧ (isScalar i = true → u = s) ∧
      (KnownCode e ∨ (isScalar i = false ∧ s.asm.fatal = true ∧ e = s.asm.fatalErr))
  | .fault _ => False
  | .refused r => r = .dualShapeOddColumns ∧ s.cfg.C % 2 = 1

/-! ### The rules that feed nothing -/

section
variable {i : Instr} {s : State}

theorem opFrame_refl (i : Instr) (s : State) : OpFrame i s s :=
  ⟨rfl, rfl, rfl, fun _ _ => ⟨rfl, rfl, rfl⟩, fun _ _ _ => ⟨rfl, rfl⟩, fun _ => rfl, fun _ _ => rfl⟩

theorem opFrame_res (h : isScalar i = true) (v : BitVec 64) : OpFrame i s { s with res := v } :=
  { opFrame_refl i s with res := fun h' => absurd (h'.symm.trans h) Bool.false_ne_true }

theorem ruleEnds_complete {u : State} {out : Output} (hi : isScalar i = false) (hu : OpFrame i s u) :
    RuleEnds i s (.complete u out) := ⟨hu, fun h => absurd (hi.symm.trans h) Bool.false_ne_true⟩

theorem ruleEnds_raise {e : ErrRec} (he : KnownCode e) : RuleEnds i s (.raise s e) :=
  ⟨opFrame_refl i s, fun _ => rfl, .inl he⟩

theorem ruleEnds_raise_written {u : State} {e : ErrRec} (hi : isScalar i = false) (hu : OpFrame i s u)
    (he : KnownCode e) : RuleEnds i s (.raise u e) :=
  ⟨hu, fun h => absurd (hi.symm.trans h) Bool.false_ne_true, .inl he⟩

/-- A check before a rule raises an error of a known kind. -/
theorem ruleEnds_guard {c : Prop} [Decidable c] {kind : ErrKind} {sub expected actual : Nat} {r : Reply}
    (hr : RuleEnds i s r) : RuleEnds i s (if c then .raise s (mkErr kind sub expected actual) else r) := by
  split
  · exact ruleEnds_raise (knownCode_mkErr ..)
  · exact hr

theorem ruleEnds_completeScalar {v : BitVec 64} (h : isScalar i = true) : RuleEnds i s (completeScalar s v) :=
  ⟨opFrame_res h v, fun _ => rfl⟩

theorem ruleEnds_pixelOp {c k addr width : Nat} {v : BitVec 64} (hin : addr + width ≤ pxBase s.cfg c k + 12)
    (hi : isScalar i = true) : RuleEnds i s (pixelOp s c k addr width v) := by
  rcases pixelOp_cases s c k addr width v hin with
    ⟨-, h⟩ | ⟨-, -, h⟩ | ⟨-, -, -, h⟩ | ⟨-, -, -, h⟩ <;> rw [h]
  · exact ruleEnds_raise (knownCode_mkErr ..)
  · exact ruleEnds_raise (knownCode_mkErr ..)
  · exact ruleEnds_raise (knownCode_mkErr ..)
  · exact ruleEnds_completeScalar hi

theorem ruleEnds_columnOp {c addr width : Nat} {v : BitVec 64} (hin : addr + width ≤ colBase s.cfg c + colLen s.cfg)
    (hi : isScalar i = true) : RuleEnds i s (columnOp s c addr width v) := by
  rcases columnOp_cases s c addr width v hin with ⟨-, h⟩ | ⟨-, -, h⟩ | ⟨-, -, h⟩ <;> rw [h]
  · exact ruleEnds_raise (knownCode_mkErr ..)
  · exact ruleEnds_raise (knownCode_mkErr ..)
  · exact ruleEnds_completeScalar hi

/-- A register write reaches the control registers only. -/
theorem writeRegister_eq (s : State) (r : Nat) (v : BitVec 12) :
    ∃ p d m, writeRegister s r v = { s with policy := p, dualsel := d, retmode := m } := by
  by_cases h : 2 ≤ r
  · exact ⟨_, _, _, writeRegister_of_two_le s v h⟩
  · have hr : r = 0 ∨ r = 1 := by omega
    rcases hr with rfl | rfl
    · exact ⟨_, _, _, writeRegister_ctrl s v⟩
    · exact ⟨_, _, _, writeRegister_retmode s v⟩

theorem opFrame_writeRegister (r : Nat) (v : BitVec 12) (s : State) : OpFrame (.csrWr r v) s (writeRegister s r v) := by
  obtain ⟨p, d, m, h⟩ := writeRegister_eq s r v
  rw [h]
  exact { opFrame_refl (.csrWr r v) s with control := fun h => absurd rfl (h r v) }

theorem ruleEnds_loadPacket (rx : List Byte) (s : State) : RuleEnds .pktLoad s (loadPacket rx s) := by
  have hframe (m : Memory) (ok : Bool) : OpFrame .pktLoad s { s with pkt := m, pktOk := ok } :=
    { opFrame_refl .pktLoad s with packet := fun h => absurd rfl h }
  rcases loadPacket_cases rx s with ⟨-, h⟩ | ⟨-, h⟩ <;> rw [h]
  · exact ruleEnds_complete rfl (hframe _ _)
  · exact ruleEnds_raise_written rfl (hframe s.pkt _) (knownCode_mkErr ..)

theorem ruleEnds_loadBuiltin (m : Nat) (s : State) : RuleEnds (.calBuiltin m) s (loadBuiltin m s) := by
  rcases loadBuiltin_cases m s with ⟨-, h⟩ | ⟨t, -, h⟩ <;> rw [h]
  · exact ruleEnds_raise (knownCode_mkErr ..)
  · exact ruleEnds_complete rfl { opFrame_refl (.calBuiltin m) s with }

theorem ruleEnds_loadExternal (tbl : CalPayload) (s : State) : RuleEnds .calExt s (loadExternal tbl s) := by
  unfold loadExternal
  refine ruleEnds_guard (ruleEnds_guard ?_)
  split
  · exact ruleEnds_raise (knownCode_mkErr ..)
  · exact ruleEnds_guard (ruleEnds_complete rfl { opFrame_refl .calExt s with })

/-- The four checks of a conversion raise errors of known kinds (42_converter.md R171). -/
theorem knownCode_of_convert {policy : Policy} {s u : State} {e : ErrRec} (h : convert policy s = .raise u e) :
    KnownCode e := by
  have of_fails {s' : State} {kind : ErrKind} {sub expected actual : Nat}
      (h : conversionFails s' (mkErr kind sub expected actual) = .raise u e) : KnownCode e := by
    obtain ⟨-, rfl⟩ := Reply.raise.inj h
    exact knownCode_mkErr ..
  unfold convert at h
  split at h
  · exact of_fails h
  split at h
  · exact of_fails h
  split at h
  · exact of_fails h
  split at h
  · exact of_fails h
  split at h
  · cases h
  · split at h <;> cases h

/-- A conversion writes the converter result, also where it is the second stage of `PROC`. -/
theorem ruleEnds_convert {s1 : State} (policy : Policy) (hframe : ∀ p, OpFrame i s { s1 with pts := p })
    (hi : isScalar i = false) : RuleEnds i s (convert policy s1) := by
  have hcfg : s1.cfg = s.cfg := (hframe s1.pts).cfg
  rcases convert_cases policy s1 with ⟨e, h⟩ | ⟨hodd, h⟩ | ⟨p, -, -, -, -, h⟩
  · have he := knownCode_of_convert h
    rw [h]
    exact ruleEnds_raise_written hi (hframe _) he
  · rw [h]
    exact ⟨rfl, hcfg ▸ hodd⟩
  · rw [h]
    exact ruleEnds_complete hi (hframe p)

end

/-! ### The two feeders -/

/-- RUN raises what a flush raises: a bad length or a full revolution buffer (43_assembler.md R205, R206). -/
theorem knownCode_of_flushColumn {cfg : Cfg} {a : Asm} {e : ErrRec} (h : flushColumn cfg a = .raise e) :
    KnownCode e := by
  rcases flushColumn_cases cfg a with ⟨-, hf⟩ | ⟨-, -, hf⟩ | ⟨-, -, hf⟩ <;> rw [hf] at h <;> cases h
  · exact knownCode_mkErr ..
  · exact knownCode_mkErr ..

theorem flushColumn_of_stepPoint_raise {cfg : Cfg} {a : Asm} {p : Point} {e : ErrRec}
    (h : stepPoint cfg a p = .raise e) : columnBoundary a p = true ∧ flushColumn cfg a = .raise e := by
  rcases stepPoint_cases cfg a p with ⟨e', hb, hf, hs⟩ | ⟨flushed, -, hs⟩ <;> rw [hs] at h <;> cases h
  exact ⟨hb, hf⟩

theorem knownCode_of_runQueue {cfg : Cfg} {queue : List Point} {a : Asm} {e : ErrRec}
    (h : (runQueue cfg queue a).raised = some e) : KnownCode e := by
  obtain ⟨b, left, -, ⟨hr, -⟩ | ⟨e', p, -, -, hs, hr⟩⟩ :=
    runQueue_induct cfg (fun _ => True) (fun _ _ _ _ _ _ => trivial) queue a trivial <;> rw [hr] at h <;> cases h
  exact knownCode_of_flushColumn (flushColumn_of_stepPoint_raise hs).2

section
variable {i : Instr} {s s1 : State}

theorem ruleEnds_runBatch (batch : List Point) (hframe : OpFrame i s s1) (hi : isScalar i = false) :
    RuleEnds i s (runBatch batch s1) := by
  rcases runBatch_cases batch s1 with ⟨r, e, rfl, he, h⟩ | ⟨r, -, -, h⟩ <;> rw [h]
  · exact ruleEnds_raise_written hi { hframe with } (knownCode_of_runQueue he)
  · exact ruleEnds_complete hi { hframe with }

/-- A push from `s1`, where it is the whole operation or the last stage of `PROC`. -/
theorem ruleEnds_pushPoints (src : PushSource) (hasm : s1.asm = s.asm) (hframe : OpFrame i s s1)
    (hpts : src = .pts → OpFrame i s { s1 with pts := .none }) (hi : isScalar i = false) :
    RuleEnds i s (pushPoints src s1) := by
  rcases pushPoints_cases src s1 with
    ⟨hfatal, h⟩ | ⟨-, -, -, h⟩ | ⟨batch, s2, -, hsrc, ⟨-, h⟩ | ⟨-, h⟩⟩ <;> rw [h]
  · exact ⟨hframe, fun h => absurd (hi.symm.trans h) Bool.false_ne_true,
      .inr ⟨hi, hasm ▸ hfatal, hasm ▸ rfl⟩⟩
  · exact ruleEnds_raise_written hi hframe (knownCode_mkErr ..)
  · exact ruleEnds_raise_written hi hframe (knownCode_mkErr ..)
  · rcases hsrc with ⟨hsrc, -, -, rfl⟩ | ⟨-, -, rfl⟩
    · exact ruleEnds_runBatch batch (hpts hsrc) hi
    · exact ruleEnds_runBatch batch hframe hi

theorem ruleEnds_asmPush (src : PushSource) (s : State) : RuleEnds (.asmPush src) s (pushPoints src s) := by
  refine ruleEnds_pushPoints src rfl (opFrame_refl _ s) (fun hsrc => ?_) rfl
  subst hsrc
  exact { opFrame_refl (.asmPush .pts) s with result := fun h => absurd (by simp) h }

theorem ruleEnds_processPacket (rx : List Byte) (s : State) : RuleEnds .proc s (processPacket rx s) := by
  have hframe (m : Memory) (ok : Bool) (p : Pts) : OpFrame .proc s { s with pkt := m, pktOk := ok, pts := p } :=
    { opFrame_refl .proc s with
      packet := fun _ h => absurd rfl h
      result := fun h => absurd (by simp) h }
  rcases processPacket_cases rx s with ⟨hfatal, h⟩ | ⟨-, -, h⟩ | ⟨s1, -, -, rfl, hend⟩
  · rw [h]
    exact ⟨opFrame_refl _ s, nofun, .inr ⟨rfl, hfatal, rfl⟩⟩
  · rw [h]
    exact ruleEnds_raise_written rfl (hframe s.pkt _ s.pts) (knownCode_mkErr ..)
  · have hconv := ruleEnds_convert (i := .proc) (s1 := { s with pkt := Memory.ofBytes rx, pktOk := true }) s.policy
      (fun p => hframe _ _ p) rfl
    have hasm := convert_endsIn (P := (·.asm = s.asm)) s.policy
      { s with pkt := Memory.ofBytes rx, pktOk := true } fun _ => rfl
    rcases hend with ⟨s2, e, hc, h⟩ | ⟨w, hc, h⟩ | ⟨s2, out, hc, h⟩ <;> rw [h] <;> rw [hc] at hconv hasm
    · exact hconv
    · exact hconv
    · obtain ⟨hs2, -⟩ := hconv
      exact ruleEnds_pushPoints .pts hasm hs2
        (fun _ => { hs2 with result := fun h => absurd (by simp) h }) rfl

end

/-! ### Every operation -/

/-- Every operation is the completion of a rule that ends as `RuleEnds` says. -/
theorem exec_ruleEnds (i : Instr) (s : State) : ∃ r, exec i s = finish r ∧ RuleEnds i s r := by
  cases i with
  | nop => exact ⟨_, rfl, ruleEnds_complete rfl (opFrame_refl _ s)⟩
  | sysReset =>
    exact ⟨.complete s.systemReset .none, rfl, ruleEnds_complete rfl
      ⟨rfl, rfl, rfl, fun _ h => absurd rfl h, fun _ _ h => absurd rfl h, fun h => absurd (by simp) h,
        fun _ h => absurd rfl h⟩⟩
  | asmReset =>
    exact ⟨.complete s.assemblerReset .none, rfl, ruleEnds_complete rfl { opFrame_refl .asmReset s with }⟩
  | csrRd r => exact ⟨_, rfl, ruleEnds_guard (ruleEnds_completeScalar rfl)⟩
  | csrWr r v => exact ⟨_, rfl, ruleEnds_guard (ruleEnds_complete rfl (opFrame_writeRegister r v s))⟩
  | pktLoad => exact ⟨_, rfl, ruleEnds_loadPacket _ s⟩
  | pxDist c k | pxRefl c k | pxSig c k | pxNoise c k =>
    refine ⟨_, rfl, ruleEnds_pixelOp ?_ rfl⟩
    simp only [distOff, reflOff, sigOff, noiseOff]
    omega
  | colTs c | colMid c | colFid c | colEnc c | colValid c | colAzdeg c | colAzrad c =>
    refine ⟨_, rfl, ruleEnds_columnOp ?_ rfl⟩
    simp only [tsOff, midOff, fidOff, encOff, markOff, colLen]
    omega
  | calBuiltin m => exact ⟨_, rfl, ruleEnds_loadBuiltin m s⟩
  | calExt => exact ⟨_, rfl, ruleEnds_loadExternal _ s⟩
  | calGet f k => exact ⟨_, rfl, ruleEnds_guard (ruleEnds_guard (ruleEnds_completeScalar rfl))⟩
  | calRes | calNum => exact ⟨_, rfl, ruleEnds_guard (ruleEnds_completeScalar rfl)⟩
  | cvtLast | cvtStrongest | cvtDual | cvtRuntime =>
    exact ⟨_, rfl, ruleEnds_convert _
      (fun p => { opFrame_refl _ s with result := fun h => absurd (by simp) h }) rfl⟩
  | asmPush src => exact ⟨_, rfl, ruleEnds_asmPush src s⟩
  | proc => exact ⟨_, rfl, ruleEnds_processPacket _ s⟩

/-- An operation that answers a next state has completed or has raised. -/
theorem exec_next_cases {i : Instr} {s t : State} (h : exec i s = .next t) :
    (∃ u out, t = u.completed out ∧ OpFrame i s u ∧ (isScalar i = true → out = .scalar u.res)) ∨
    (∃ u e, t = u.raised e ∧ OpFrame i s u ∧ (isScalar i = true → u = s) ∧
      (KnownCode e ∨ (isScalar i = false ∧ s.asm.fatal = true ∧ e = s.asm.fatalErr))) := by
  obtain ⟨r, hr, hend⟩ := exec_ruleEnds i s
  rw [hr] at h
  rcases (finish_next_iff r t).mp h with ⟨u, out, rfl, rfl⟩ | ⟨u, e, rfl, rfl⟩
  · exact .inl ⟨u, out, rfl, hend⟩
  · exact .inr ⟨u, e, rfl, hend⟩

/-- The completion writes nothing that the frame speaks of. -/
theorem exec_frame {i : Instr} {s t : State} (h : exec i s = .next t) : OpFrame i s t := by
  rcases exec_next_cases h with ⟨u, out, rfl, hu, -⟩ | ⟨u, e, rfl, hu, -⟩
  · exact { hu with }
  · exact { hu with }

end Sys2Proof.Machine

namespace Sys2Proof.Proofs

open Sys2Proof Sys2Proof.Machine Sys2Proof.Claims

/-- An operation completes, or is the dual shape with C odd. -/
theorem exec_completes_or_refused (i : Instr) (s : State) :
    (∃ t, exec i s = .next t) ∨ (exec i s = .refused .dualShapeOddColumns ∧ s.cfg.C % 2 = 1) := by
  obtain ⟨r, hr, hend⟩ := exec_ruleEnds i s
  rw [hr]
  cases r with
  | complete u out => exact .inl ⟨_, rfl⟩
  | raise u e => exact .inl ⟨_, rfl⟩
  | fault f => exact hend.elim
  | refused w =>
    obtain ⟨rfl, hodd⟩ := hend
    exact .inr ⟨rfl, hodd⟩

theorem exec_completes_of_even (i : Instr) {s : State} (heven : s.cfg.C % 2 = 0) : ∃ t, exec i s = .next t := by
  rcases exec_completes_or_refused i s with h | ⟨-, hodd⟩
  · exact h
  · omega

theorem step_completes_of_even {s : State} (heven : s.cfg.C % 2 = 0) : ∃ t, step s = .next t := by
  cases hcmds : s.cmds with
  | nil => exact ⟨s, step_of_no_cmds hcmds⟩
  | cons cmd rest =>
    have hword : ∃ t, performWord cmd.word (s.accept cmd rest) = .next t := by
      rcases performWord_cases cmd.word (s.accept cmd rest) with ⟨i, -, h⟩ | ⟨-, h⟩ <;> rw [h]
      · exact exec_completes_of_even i heven
      · exact ⟨_, rfl⟩
    obtain ⟨t, ht⟩ := hword
    exact ⟨t.dropPayload, by rw [step_of_cmds hcmds, ht]; rfl⟩

/-- Settles O46: no rule ends in a fault, and the one refusal needs C odd. -/
theorem everyOperationCompletes : Obligations.EveryOperationCompletes := by
  refine ⟨fun i s => exec_completes_of_even i, fun i s => ?_, fun s => step_completes_of_even⟩
  rcases exec_completes_or_refused i s with h | ⟨h, -⟩
  · exact .inl h
  · exact .inr h

/-- Settles O47: an error has a known kind, or is the latched one, whose code the invariant knows. -/
theorem completionRegistersAreWritten : Obligations.CompletionRegistersAreWritten := by
  intro i s t hinv h
  rcases exec_next_cases h with ⟨u, out, rfl, -, -⟩ | ⟨u, e, rfl, -, -, ⟨hlo, hhi⟩ | ⟨-, hfatal, rfl⟩⟩
  · exact .inl rfl
  · exact .inr ⟨hlo, hhi, rfl⟩
  · obtain ⟨-, -, ⟨hcode, -⟩ | ⟨hcode, -⟩⟩ := hinv.assembler.stopped hfatal
    · exact .inr ⟨by simp [hcode], by simp [hcode], rfl⟩
    · exact .inr ⟨by simp [hcode], by simp [hcode], rfl⟩

/-- Settles O48: what a scalar operation returns and keeps, and the frame of the others. -/
theorem onlyScalarOperationsWriteRes : Obligations.OnlyScalarOperationsWriteRes := by
  refine fun i s t h => ⟨fun hi hok => ?_, fun hi herr => ?_, fun hi hsys => (exec_frame h).res hi hsys⟩
  · rcases exec_next_cases h with ⟨u, out, rfl, -, hout⟩ | ⟨u, e, rfl, -, -, he | ⟨hi', -⟩⟩
    · exact hout hi
    · exact absurd hok he.code_ne_zero
    · exact absurd (hi'.symm.trans hi) Bool.false_ne_true
  · rcases exec_next_cases h with ⟨u, out, rfl, -, -⟩ | ⟨u, e, rfl, -, hu, -⟩
    · exact absurd rfl herr
    · rw [raised_res, hu hi]

/-- Settles O49: the frame of the assembler. -/
theorem assemblerIsChangedByFourOperations : Obligations.AssemblerIsChangedByFourOperations :=
  fun _ _ _ hi h => exec_asm_of_leavesAssembler hi h

/-- Settles O50: the frame of the packet. -/
theorem packetIsWrittenByLoadsOnly : Obligations.PacketIsWrittenByLoadsOnly := by
  intro i s t hload hproc hsys h
  obtain ⟨hok, hpkt⟩ := (exec_frame h).packet hload hproc hsys
  exact ⟨hok, fun a => hpkt ▸ rfl⟩

/-- Settles O51: the frames of the configuration, the host's fields, the control registers and the result. -/
theorem controlAndResultFrames : Obligations.ControlAndResultFrames := by
  intro i s t h
  obtain ⟨hcfg, hcmds, hpayload, hcontrol, -, hresult, -⟩ := exec_frame h
  exact ⟨hcfg, hcmds, hpayload, hcontrol, hresult⟩

end Sys2Proof.Proofs
end

section
/-!
PROOFS. The invariants of the block (10_state.md R41). The assembler's are those of its completed columns, which flush
and finalisation keep, and those of its column buffer, which the append restores; RUN carries both, and with them what
the frame is made of and that no point is lost.
-/

namespace Sys2Proof.Machine

open Sys2Proof

/-! ### The sort of a column (43_assembler.md R210) -/

theorem mem_insertByChannel {p q : Point} {column : List Point} :
    q ∈ insertByChannel p column ↔ q = p ∨ q ∈ column := by
  induction column with
  | nil => simp [insertByChannel]
  | cons r rs ih =>
    unfold insertByChannel
    split
    · exact List.mem_cons
    · rw [List.mem_cons, ih, List.mem_cons]
      exact or_left_comm

/-- A point goes in before the first higher channel, so a rising column stays rising. -/
theorem channelsRise_insertByChannel (p : Point) {column : List Point} (h : ChannelsRise column) :
    ChannelsRise (insertByChannel p column) := by
  induction column with
  | nil => exact List.pairwise_singleton _ p
  | cons q qs ih =>
    obtain ⟨hq, hqs⟩ := List.pairwise_cons.mp h
    unfold insertByChannel
    split
    · rename_i hlt
      refine List.pairwise_cons.mpr ⟨fun r hr => ?_, h⟩
      rcases List.mem_cons.mp hr with rfl | hr
      · exact (BitVec.lt_def.mp hlt).le
      · exact (BitVec.lt_def.mp hlt).le.trans (hq r hr)
    · rename_i hge
      refine List.pairwise_cons.mpr ⟨fun r hr => ?_, ih hqs⟩
      rcases mem_insertByChannel.mp hr with rfl | hr
      · exact BitVec.le_def.mp (BitVec.not_lt.mp hge)
      · exact hq r hr

/-- A point that is below none of a column goes to its end. -/
theorem insertByChannel_of_le {p : Point} {column : List Point} (h : ∀ q ∈ column, q.ch.toNat ≤ p.ch.toNat) :
    insertByChannel p column = column ++ [p] := by
  induction column with
  | nil => rfl
  | cons q qs ih =>
    have hq := h q List.mem_cons_self
    rw [insertByChannel, if_neg (BitVec.not_lt.mpr (BitVec.le_def.mpr hq)),
      ih fun r hr => h r (List.mem_cons_of_mem q hr)]
    rfl

/-- In a rising column a point goes in behind those of its channel. -/
theorem filter_insertByChannel (p : Point) (ch : BitVec 16) {column : List Point} (h : ChannelsRise column) :
    (insertByChannel p column).filter (fun q => q.ch == ch) =
      column.filter (fun q => q.ch == ch) ++ [p].filter (fun q => q.ch == ch) := by
  induction column with
  | nil => rfl
  | cons q qs ih =>
    obtain ⟨hq, hqs⟩ := List.pairwise_cons.mp h
    unfold insertByChannel
    split
    · rename_i hlt
      by_cases hp : p.ch = ch
      · have hnone : (q :: qs).filter (fun r => r.ch == ch) = [] := by
          refine List.filter_eq_nil_iff.mpr fun r hr => ?_
          have hlt : p.ch.toNat < r.ch.toNat := by
            rcases List.mem_cons.mp hr with rfl | hr
            · exact BitVec.lt_def.mp hlt
            · exact (BitVec.lt_def.mp hlt).trans_le (hq r hr)
          simp only [beq_iff_eq, ← hp]
          exact fun heq => hlt.ne' (congrArg BitVec.toNat heq)
        rw [List.filter_cons, hnone, List.filter_singleton]
        simp [hp]
      · simp [hp, List.filter_cons]
    · rw [List.filter_cons, List.filter_cons, ih hqs]
      split <;> rfl

theorem sortByChannel_append (column : List Point) (p : Point) :
    sortByChannel (column ++ [p]) = insertByChannel p (sortByChannel column) := by
  rw [sortByChannel, List.foldl_append]
  rfl

theorem channelsRise_sortByChannel (column : List Point) : ChannelsRise (sortByChannel column) := by
  induction column using List.reverseRecOn with
  | nil => exact List.Pairwise.nil
  | append_singleton column p ih =>
    rw [sortByChannel_append]
    exact channelsRise_insertByChannel p ih

theorem filter_sortByChannel (column : List Point) (ch : BitVec 16) :
    (sortByChannel column).filter (fun p => p.ch == ch) = column.filter (fun p => p.ch == ch) := by
  induction column using List.reverseRecOn with
  | nil => rfl
  | append_singleton column p ih =>
    rw [sortByChannel_append, filter_insertByChannel p ch (channelsRise_sortByChannel column), ih, List.filter_append]

/-- The last point of a column bounds the others exactly where the column goes on rising. -/
theorem channelsRise_append_singleton {column : List Point} {p : Point} :
    ChannelsRise (column ++ [p]) ↔ ChannelsRise column ∧ ∀ q ∈ column, q.ch.toNat ≤ p.ch.toNat := by
  simp [ChannelsRise, List.pairwise_append]

theorem sortByChannel_of_rise {column : List Point} (h : ChannelsRise column) : sortByChannel column = column := by
  induction column using List.reverseRecOn with
  | nil => rfl
  | append_singleton column p ih =>
    obtain ⟨hrise, hle⟩ := channelsRise_append_singleton.mp h
    rw [sortByChannel_append, ih hrise, insertByChannel_of_le hle]

/-- Columns that rise already are joined as they are. -/
theorem flatMap_sortByChannel {rev : List (List Point)} (h : ∀ column ∈ rev, ChannelsRise column) :
    rev.flatMap sortByChannel = rev.flatten := by
  rw [List.flatMap_def, List.map_congr_left fun column hc => sortByChannel_of_rise (h column hc), List.map_id']

/-! ### The invariants of the completed columns -/

/-- The assembler's invariants on its completed columns and its frame slot: those that do not speak of the column
buffer, the previous point, the queue or the fatal condition. -/
structure ColumnsInv (cfg : Cfg) (a : Asm) : Prop where
  counted : a.colcnt = BitVec.ofNat 32 a.rev.length
  columnsFull : ∀ column ∈ a.rev, column.length = cfg.beamCount
  columnsRise : ∀ column ∈ a.rev, ChannelsRise column
  beams : ∀ column, a.rev.getLast? = some column →
    ∃ p, column.getLast? = some p ∧ a.beamNum = p.ch + 1
  framed : a.frameValid = true →
    ∃ w, 1 ≤ w ∧ WithinCap cfg.revCap w ∧ a.frame.width = BitVec.ofNat 32 w ∧
      a.frame.points.length = cfg.beamCount * w
  unframed : a.frameValid = false → a.frame = Frame.empty
  revFits : WithinCap cfg.revCap a.rev.length

theorem columnsInv_of_inv {cfg : Cfg} {a : Asm} (h : a.Inv cfg) : ColumnsInv cfg a :=
  ⟨h.counted, h.columnsFull, h.columnsRise, h.beams, h.framed, h.unframed, h.revFits⟩

/-- A column boundary needs a previous point, which stands at the end of the column buffer. -/
theorem previous_of_boundary {cfg : Cfg} {a : Asm} {p : Point} (h : a.Inv cfg) (hb : columnBoundary a p = true) :
    ∃ q, a.colbuf.getLast? = some q ∧ p.ch.toNat < q.ch.toNat := by
  obtain ⟨hvalid, hlt⟩ := Bool.and_eq_true_iff.mp hb
  obtain ⟨q, hq, hch, -⟩ := h.previous hvalid
  exact ⟨q, hq, hch ▸ BitVec.lt_def.mp (of_decide_eq_true hlt)⟩

/-- Without a column boundary the point is below none of the column buffer. -/
theorem bufferRises_append {cfg : Cfg} {a : Asm} {p : Point} (h : a.Inv cfg) (hb : columnBoundary a p = false) :
    ChannelsRise (a.colbuf ++ [p]) := by
  refine channelsRise_append_singleton.mpr ⟨h.bufferRises, fun q hq => ?_⟩
  cases hv : a.prevValid with
  | false =>
    obtain ⟨hempty, -⟩ := h.fresh hv
    rw [hempty] at hq
    cases hq
  | true =>
    obtain ⟨last, hlast, hch, -⟩ := h.previous hv
    have hle : last.ch.toNat ≤ p.ch.toNat := by
      have hnot : ¬p.ch < a.prevCh := by simpa [columnBoundary, hv] using hb
      rw [← hch]
      exact BitVec.le_def.mp (BitVec.not_lt.mp hnot)
    obtain ⟨init, hinit⟩ := List.getLast?_eq_some_iff.mp hlast
    have hrise := h.bufferRises
    rw [hinit] at hrise hq
    obtain ⟨-, hbound⟩ := channelsRise_append_singleton.mp hrise
    rcases List.mem_append.mp hq with hq | hq
    · exact (hbound q hq).trans hle
    · rwa [List.mem_singleton.mp hq]

/-- The flush appends a full rising column and counts it. -/
theorem columnsInv_flushColumn {cfg : Cfg} {a flushed : Asm} {q : Point} (h : a.Inv cfg)
    (hq : a.colbuf.getLast? = some q) (hf : flushColumn cfg a = .ok flushed) :
    ColumnsInv cfg flushed ∧ flushed.colbuf = [] := by
  rcases flushColumn_cases cfg a with ⟨-, hr⟩ | ⟨-, -, hr⟩ | ⟨hlen, hroom, hr⟩ <;>
    rw [hr] at hf <;> cases hf
  refine ⟨⟨?_, fun column hc => ?_, fun column hc => ?_, fun column hc => ?_, h.framed, h.unframed, ?_⟩, rfl⟩
  · simp [h.counted, BitVec.ofNat_add]
  · rcases List.mem_append.mp hc with hc | hc
    · exact h.columnsFull column hc
    · rwa [List.mem_singleton.mp hc]
  · rcases List.mem_append.mp hc with hc | hc
    · exact h.columnsRise column hc
    · rw [List.mem_singleton.mp hc]
      exact h.bufferRises
  · obtain rfl : a.colbuf = column := by simpa using hc
    exact ⟨q, hq, by simp [detectedBeams, hq]⟩
  · intro limit hlimit
    have hle := h.revFits limit hlimit
    have hne : limit ≠ a.rev.length := fun heq => hroom (heq ▸ hlimit)
    simp only [List.length_append, List.length_singleton]
    omega

/-- The finalisation makes the frame of at least one full column. -/
theorem columnsInv_finalise {cfg : Cfg} {a : Asm} (boundary : Bool) (h : ColumnsInv cfg a) :
    ColumnsInv cfg (finaliseIfBoundary boundary a) := by
  rcases finaliseIfBoundary_cases boundary a with ⟨-, hne, hr⟩ | ⟨-, hr⟩ <;> rw [hr]
  · refine ⟨rfl, nofun, nofun, nofun, fun _ => ?_, nofun, fun limit _ => Nat.zero_le limit⟩
    refine ⟨a.rev.length, List.length_pos_iff.mpr hne, h.revFits, rfl, ?_⟩
    rw [finaliseFrame_frame, flatMap_sortByChannel h.columnsRise, List.length_flatten,
      List.map_congr_left h.columnsFull, List.map_const', List.sum_replicate, smul_eq_mul, Nat.mul_comm]
  · exact h

/-! ### One point -/

/-- What STEP appends to: the columns with the full column flushed at a boundary, where the point may join the column
buffer, no point moved and no frame touched. -/
structure Flushed (cfg : Cfg) (a : Asm) (p : Point) (flushed : Asm) : Prop where
  columns : ColumnsInv cfg flushed
  rises : ChannelsRise (flushed.colbuf ++ [p])
  points : flushed.rev.flatten ++ flushed.colbuf = a.rev.flatten ++ a.colbuf
  slot : flushed.frameValid = a.frameValid

/-- A STEP that does not raise finalises and appends to what the flush left. -/
theorem stepPoint_ok {cfg : Cfg} {a a' : Asm} {p : Point} (h : a.Inv cfg) (hs : stepPoint cfg a p = .ok a') :
    ∃ flushed, Flushed cfg a p flushed ∧
      a' = appendPoint (finaliseIfBoundary (revolutionBoundary a p) flushed) p := by
  rcases stepPoint_cases cfg a p with ⟨e, -, -, hr⟩ | ⟨flushed, hflush, hr⟩ <;> rw [hr] at hs <;> cases hs
  refine ⟨flushed, ?_, rfl⟩
  rcases hflush with ⟨hb, hf⟩ | ⟨hb, rfl⟩
  · obtain ⟨q, hq, -⟩ := previous_of_boundary h hb
    obtain ⟨hcolumns, hempty⟩ := columnsInv_flushColumn h hq hf
    rcases flushColumn_cases cfg a with ⟨-, hr⟩ | ⟨-, -, hr⟩ | ⟨-, -, hr⟩ <;> rw [hr] at hf <;> cases hf
    exact ⟨hcolumns, List.pairwise_singleton _ p, by simp, rfl⟩
  · exact ⟨columnsInv_of_inv h, bufferRises_append h hb, rfl, rfl⟩

/-- The append restores the invariants of the column buffer; the point leaves the queue. -/
theorem inv_stepPoint {cfg : Cfg} {a a' : Asm} {p : Point} {rest : List Point} (h : a.Inv cfg)
    (hf : a.fatal = false) (hqueue : a.inq = p :: rest) (hs : stepPoint cfg a p = .ok a') :
    (a'.withQueue rest).Inv cfg := by
  obtain ⟨-, hfatal, herr⟩ := stepPoint_keeps cfg a a' p hs
  rw [hf] at hfatal
  rw [h.healthy hf] at herr
  obtain ⟨flushed, hflushed, rfl⟩ := stepPoint_ok h hs
  have hcolumns := columnsInv_finalise (revolutionBoundary a p) hflushed.columns
  have hcolbuf : (finaliseIfBoundary (revolutionBoundary a p) flushed).colbuf = flushed.colbuf := by
    rcases finaliseIfBoundary_cases (revolutionBoundary a p) flushed with ⟨-, -, hr⟩ | ⟨-, hr⟩ <;> rw [hr]
    rfl
  generalize finaliseIfBoundary (revolutionBoundary a p) flushed = b at hcolumns hcolbuf hfatal herr
  have hrises : ChannelsRise (b.colbuf ++ [{ p with col := b.colcnt }]) := by
    obtain ⟨hrise, hle⟩ := channelsRise_append_singleton.mp hflushed.rises
    rw [hcolbuf]
    exact channelsRise_append_singleton.mpr ⟨hrise, hle⟩
  exact
    { counted := hcolumns.counted
      columnsFull := hcolumns.columnsFull
      columnsRise := hcolumns.columnsRise
      bufferRises := hrises
      previous := fun _ => ⟨{ p with col := b.colcnt }, List.getLast?_concat, rfl, rfl⟩
      fresh := nofun
      beams := hcolumns.beams
      framed := hcolumns.framed
      unframed := hcolumns.unframed
      revFits := hcolumns.revFits
      inqFits := fun limit hlimit => by
        have hle := h.inqFits limit hlimit
        rw [hqueue, List.length_cons] at hle
        exact (Nat.le_succ _).trans hle
      healthy := fun _ => herr
      stopped := fun ht => absurd (hfatal.symm.trans ht) Bool.false_ne_true }

end Sys2Proof.Machine

namespace Sys2Proof.Proofs

open Sys2Proof Sys2Proof.Machine Sys2Proof.Claims

/-- A frame as 43_assembler.md R211 says it is: whole rising columns, at least one, as many as its width. -/
def WholeColumns (cfg : Cfg) (f : Frame) : Prop :=
  ∃ columns : List (List Point), columns ≠ [] ∧ f.points = columns.flatten ∧
    f.width = BitVec.ofNat 32 columns.length ∧
    ∀ column ∈ columns, column.length = cfg.beamCount ∧ ChannelsRise column

/-- A STEP that makes a frame makes it of whole columns. -/
theorem wholeColumns_stepPoint {cfg : Cfg} {a a' : Asm} {p : Point} (h : a.Inv cfg) (hframe : a.frameValid = false)
    (hs : stepPoint cfg a p = .ok a') (hframe' : a'.frameValid = true) : WholeColumns cfg a'.frame := by
  obtain ⟨flushed, hflushed, rfl⟩ := stepPoint_ok h hs
  rcases finaliseIfBoundary_cases (revolutionBoundary a p) flushed with ⟨-, hne, hr⟩ | ⟨-, hr⟩ <;>
    rw [hr] at hframe' ⊢
  · exact ⟨flushed.rev, hne, flatMap_sortByChannel hflushed.columns.columnsRise, rfl, fun column hc =>
      ⟨hflushed.columns.columnsFull column hc, hflushed.columns.columnsRise column hc⟩⟩
  · rw [appendPoint_frameValid, hflushed.slot, hframe] at hframe'
    cases hframe'

/-- The points that the assembler has taken and not yet handed out before the present push, in stream order. -/
def taken (a : Asm) : List Point :=
  (if a.frameValid then a.frame.points else []) ++ (a.rev.flatten ++ a.colbuf)

theorem taken_appendPoint (a : Asm) (p : Point) :
    taken (appendPoint a p) = taken a ++ [{ p with col := a.colcnt }] := by
  rw [taken, taken, List.append_assoc, List.append_assoc]
  rfl

/-- STEP takes its point behind the others. -/
theorem taken_stepPoint {cfg : Cfg} {a a' : Asm} {p : Point} (h : a.Inv cfg) (hframe : a.frameValid = false)
    (hs : stepPoint cfg a p = .ok a') : (taken a').map unassigned = (taken a ++ [p]).map unassigned := by
  obtain ⟨flushed, hflushed, rfl⟩ := stepPoint_ok h hs
  have hpoints : taken a = flushed.rev.flatten ++ flushed.colbuf := by
    rw [taken, hframe, hflushed.points]
    rfl
  have htaken : taken (finaliseIfBoundary (revolutionBoundary a p) flushed) = taken a := by
    rw [hpoints]
    rcases finaliseIfBoundary_cases (revolutionBoundary a p) flushed with ⟨-, -, hr⟩ | ⟨-, hr⟩ <;> rw [hr]
    · simp [taken, flatMap_sortByChannel hflushed.columns.columnsRise]
    · simp [taken, hflushed.slot, hframe]
  rw [taken_appendPoint, htaken, List.map_append, List.map_append]
  rfl

/-! ### RUN -/

/-- Everything RUN keeps of an assembler and the points still queued before it: the invariants, FATAL clear, a frame of
whole columns, and `stream`, the points taken and queued together. -/
structure Running (cfg : Cfg) (stream : List Point) (a : Asm) (queue : List Point) : Prop where
  inv : (a.withQueue queue).Inv cfg
  healthy : a.fatal = false
  whole : a.frameValid = true → WholeColumns cfg a.frame
  kept : (taken a ++ queue).map unassigned = stream.map unassigned

theorem running_stepPoint {cfg : Cfg} {stream : List Point} {a a' : Asm} {p : Point} {rest : List Point}
    (hframe : a.frameValid = false) (h : Running cfg stream a (p :: rest)) (hs : stepPoint cfg a p = .ok a') :
    Running cfg stream a' rest := by
  have hs' : stepPoint cfg (a.withQueue (p :: rest)) p = .ok (a'.withQueue (p :: rest)) := by
    rw [stepPoint_withQueue, hs]
  obtain ⟨-, hfatal, -⟩ := stepPoint_keeps cfg a a' p hs
  refine ⟨inv_stepPoint (a' := a'.withQueue (p :: rest)) h.inv h.healthy rfl hs', hfatal.trans h.healthy,
    wholeColumns_stepPoint (a' := a'.withQueue (p :: rest)) h.inv hframe hs', ?_⟩
  have htaken : (taken a').map unassigned = (taken a ++ [p]).map unassigned :=
    taken_stepPoint (a := a.withQueue (p :: rest)) (a' := a'.withQueue (p :: rest)) h.inv hframe hs'
  rw [List.map_append, htaken, ← List.map_append, List.append_assoc]
  exact h.kept

/-- The errors that latch FATAL (43_assembler.md R224). -/
def Latchable (e : ErrRec) : Prop := (e.code = 4 ∧ e.sub = 1) ∨ (e.code = 9 ∧ e.sub = 2)

theorem latchable_of_flushColumn {cfg : Cfg} {a : Asm} {e : ErrRec} (h : flushColumn cfg a = .raise e) :
    Latchable e := by
  rcases flushColumn_cases cfg a with ⟨-, hf⟩ | ⟨-, -, hf⟩ | ⟨-, -, hf⟩ <;> rw [hf] at h <;> cases h
  · exact .inl ⟨rfl, rfl⟩
  · exact .inr ⟨rfl, rfl⟩

/-- What RUN leaves, from an assembler that meets `Running`: the queue drained or a frame made, or the latch set before
a frame is made. -/
theorem runQueue_running {cfg : Cfg} {stream : List Point} (queue : List Point) (a : Asm)
    (h : Running cfg stream a queue) :
    ∃ b left, Running cfg stream b left ∧
      ((runQueue cfg queue a = { asm := b.withQueue left, raised := none } ∧
          (left = [] ∨ b.frameValid = true)) ∨
        (∃ e, left ≠ [] ∧ b.frameValid = false ∧ Latchable e ∧
          runQueue cfg queue a = { asm := latchFatal (b.withQueue left) e, raised := some e })) := by
  induction queue generalizing a with
  | nil => exact ⟨a, [], h, .inl ⟨rfl, .inl rfl⟩⟩
  | cons p rest ih =>
    cases hframe : a.frameValid with
    | true => exact ⟨a, p :: rest, h, .inl ⟨runQueue_cons_frame cfg p rest a hframe, .inr hframe⟩⟩
    | false =>
      cases hs : stepPoint cfg a p with
      | raise e =>
        exact ⟨a, p :: rest, h, .inr ⟨e, List.cons_ne_nil p rest, hframe,
          latchable_of_flushColumn (flushColumn_of_stepPoint_raise hs).2,
          runQueue_cons_raise cfg p rest a e hframe hs⟩⟩
      | ok a' =>
        rw [runQueue_cons_ok cfg p rest a a' hframe hs]
        exact ih a' (running_stepPoint hframe h hs)

/-- The latch with its point at the head of the queue and no frame. -/
theorem inv_latchFatal {cfg : Cfg} {a : Asm} {e : ErrRec} (h : a.Inv cfg) (hqueue : a.inq ≠ [])
    (hframe : a.frameValid = false) (he : Latchable e) : (latchFatal a e).Inv cfg :=
  { h with healthy := nofun, stopped := fun _ => ⟨hframe, hqueue, he⟩ }

/-- A push begins with the frame slot empty and its batch queued behind what was. -/
theorem running_clearFrame {cfg : Cfg} {a : Asm} {batch : List Point} (h : a.Inv cfg) (hf : a.fatal = false)
    (hroom : WithinCap cfg.inqCap (a.inq.length + batch.length)) :
    Running cfg (leftover a ++ batch) (clearFrame a) (a.inq ++ batch) where
  inv :=
    { h with
      framed := nofun
      unframed := fun _ => rfl
      inqFits := by
        rw [← List.length_append] at hroom
        exact hroom
      stopped := fun ht => absurd (hf.symm.trans ht) Bool.false_ne_true }
  healthy := hf
  whole := nofun
  kept := by simp [taken, leftover]

/-- An accepted batch: what it leaves in the assembler and how it ends. -/
theorem runBatch_running {s : State} (batch : List Point) (h : s.asm.Inv s.cfg) (hf : s.asm.fatal = false)
    (hroom : WithinCap s.cfg.inqCap (s.asm.inq.length + batch.length)) :
    ∃ b left, Running s.cfg (leftover s.asm ++ batch) b left ∧
      ((runBatch batch s = .complete { s with asm := b.withQueue left } (.frame (emittedFrame b)) ∧
          (left = [] ∨ b.frameValid = true)) ∨
        (∃ e, left ≠ [] ∧ b.frameValid = false ∧ Latchable e ∧
          runBatch batch s = .raise { s with asm := latchFatal (b.withQueue left) e } e)) := by
  obtain ⟨b, left, hb, ⟨hr, hend⟩ | ⟨e, hleft, hframe, he, hr⟩⟩ :=
    runQueue_running (s.asm.inq ++ batch) (clearFrame s.asm) (running_clearFrame h hf hroom)
  · exact ⟨b, left, hb, .inl ⟨by simp only [runBatch, clearFrame_inq, hr]; rfl, hend⟩⟩
  · exact ⟨b, left, hb, .inr ⟨e, hleft, hframe, he, by simp only [runBatch, clearFrame_inq, hr]⟩⟩

/-- A push from a state with the assembler's invariants: it raises and writes nothing, or it runs a batch, a converter
result that it runs being consumed. -/
theorem pushPoints_running (src : PushSource) {s : State} (h : s.asm.Inv s.cfg) :
    (∃ e, e.code ≠ 0 ∧ pushPoints src s = .raise s e) ∨
    (∃ batch s1 b left, (s1 = s ∨ s1 = { s with pts := .none }) ∧
      Running s.cfg (leftover s.asm ++ batch) b left ∧
      ((pushPoints src s = .complete { s1 with asm := b.withQueue left } (.frame (emittedFrame b)) ∧
          (left = [] ∨ b.frameValid = true)) ∨
        (∃ e, left ≠ [] ∧ b.frameValid = false ∧ Latchable e ∧
          pushPoints src s = .raise { s1 with asm := latchFatal (b.withQueue left) e } e))) := by
  rcases pushPoints_cases src s with
    ⟨hf, hr⟩ | ⟨-, -, -, hr⟩ | ⟨batch, s1, hf, hs1, ⟨-, hr⟩ | ⟨hroom, hr⟩⟩
  · refine .inl ⟨_, ?_, hr⟩
    obtain ⟨-, -, ⟨hcode, -⟩ | ⟨hcode, -⟩⟩ := h.stopped hf <;> simp [hcode]
  · exact .inl ⟨_, (knownCode_mkErr ..).code_ne_zero, hr⟩
  · exact .inl ⟨_, (knownCode_mkErr ..).code_ne_zero, hr⟩
  · have hroom := (exceeds_eq_false_iff _ _).mp hroom
    rw [hr]
    rcases hs1 with ⟨-, -, -, rfl⟩ | ⟨-, -, rfl⟩
    · obtain ⟨b, left, hb, hend⟩ := runBatch_running (s := { s with pts := .none }) batch h hf hroom
      exact .inr ⟨batch, _, b, left, .inr rfl, hb, hend⟩
    · obtain ⟨b, left, hb, hend⟩ := runBatch_running batch h hf hroom
      exact .inr ⟨batch, _, b, left, .inl rfl, hb, hend⟩

/-! ### The block -/

/-- The invariants speak of neither the host's fields, the control registers, `RES` nor the completion. -/
theorem inv_of_fields {s t : State} (h : s.Inv) (hcfg : t.cfg = s.cfg) (hpkt : t.pkt = s.pkt)
    (hcalOk : t.calOk = s.calOk) (hcal : t.cal = s.cal) (hpts : t.pts = s.pts) (hasm : t.asm = s.asm) : t.Inv := by
  cases t
  cases hcfg
  cases hpkt
  cases hcalOk
  cases hcal
  cases hpts
  cases hasm
  exact { h with }

/-- Right after reset nothing is buffered, readable or latched. -/
theorem inv_resetOf {cfg : Cfg} (h : cfg.Wf) : (State.resetOf cfg).Inv where
  configured := h
  packetCanonical := ⟨List.Pairwise.nil, nofun⟩
  packetInside := nofun
  tableActive := nofun
  shaped := trivial
  assembler :=
    { counted := rfl
      columnsFull := nofun
      columnsRise := nofun
      bufferRises := List.Pairwise.nil
      previous := nofun
      fresh := fun _ => ⟨rfl, rfl⟩
      beams := nofun
      framed := nofun
      unframed := fun _ => rfl
      revFits := fun limit _ => Nat.zero_le limit
      inqFits := fun limit _ => Nat.zero_le limit
      healthy := fun _ => rfl
      stopped := nofun }

section
variable {s : State}

theorem loadPacket_inv (rx : List Byte) (h : s.Inv) : (loadPacket rx s).EndsIn State.Inv := by
  rcases loadPacket_cases rx s with ⟨hlen, hr⟩ | ⟨-, hr⟩ <;> rw [hr]
  · exact
      { h with
        packetCanonical := ofBytes_wf rx
        packetInside := fun cell hc => hlen ▸ ofBytes_addresses rx cell hc }
  · exact { h with }

theorem loadBuiltin_inv (m : Nat) (h : s.Inv) : (loadBuiltin m s).EndsIn State.Inv := by
  rcases loadBuiltin_cases m s with ⟨-, hr⟩ | ⟨t, ht, hr⟩ <;> rw [hr]
  · exact h
  · obtain ⟨-, -, -, -, -, -, ⟨-, hbuiltin⟩, -⟩ := h.configured
    exact { h with tableActive := fun _ => hbuiltin t (List.mem_of_getElem? ht) }

theorem loadExternal_inv (tbl : CalPayload) (h : s.Inv) : (loadExternal tbl s).EndsIn State.Inv := by
  rcases loadExternal_cases tbl s with ⟨e, hr⟩ | ⟨hres, -, -, hcap, hr⟩ <;> rw [hr]
  · exact h
  · obtain ⟨-, -, -, -, -, ⟨-, hfits⟩, -⟩ := h.configured
    exact { h with tableActive := fun _ => tableOfPayload_wf tbl s.cfg.calCap hres hcap hfits }

theorem convert_inv (policy : Policy) (h : s.Inv) : (convert policy s).EndsIn State.Inv := by
  rcases convert_cases policy s with
    ⟨e, hr⟩ | ⟨-, hr⟩ | ⟨p, -, -, -, ⟨tag, -, rfl⟩ | ⟨-, heven, rfl⟩, hr⟩ <;> rw [hr]
  · exact { h with shaped := trivial }
  · trivial
  · exact { h with shaped := length_singlePoints _ _ _ _ }
  · exact { h with shaped := ⟨heven, length_dualPairs _ _ _⟩ }

theorem pushPoints_inv (src : PushSource) (h : s.Inv) : (pushPoints src s).EndsIn State.Inv := by
  have hpush {s1 : State} {a : Asm} (hs1 : s1 = s ∨ s1 = { s with pts := .none }) (ha : a.Inv s.cfg) :
      ({ s1 with asm := a } : State).Inv := by
    rcases hs1 with rfl | rfl
    · exact { h with assembler := ha }
    · exact { h with shaped := trivial, assembler := ha }
  rcases pushPoints_running src h.assembler with ⟨e, -, hr⟩ | ⟨batch, s1, b, left, hs1, hb, ⟨hr, -⟩ |
    ⟨e, hleft, hframe, he, hr⟩⟩ <;> rw [hr]
  · exact h
  · exact hpush hs1 hb.inv
  · exact hpush hs1 (inv_latchFatal hb.inv hleft hframe he)

theorem processPacket_inv (rx : List Byte) (h : s.Inv) : (processPacket rx s).EndsIn State.Inv := by
  have hload := loadPacket_inv rx h
  rcases processPacket_cases rx s with ⟨-, hr⟩ | ⟨-, -, hr⟩ | ⟨s1, -, hlen, rfl, hend⟩
  · rw [hr]
    exact h
  · rw [hr]
    exact { h with }
  · rw [loadPacket, if_pos hlen] at hload
    have hconv := convert_inv s.policy (s := { s with pkt := Memory.ofBytes rx, pktOk := true }) hload
    rcases hend with ⟨s2, e, hc, hr⟩ | ⟨w, -, hr⟩ | ⟨s2, out, hc, hr⟩ <;> rw [hr]
    · rw [hc] at hconv
      exact hconv
    · trivial
    · rw [hc] at hconv
      exact pushPoints_inv .pts hconv

end

/-- The completion keeps the invariants. -/
theorem inv_of_finish {r : Reply} {t : State} (hr : r.EndsIn State.Inv) (h : finish r = .next t) : t.Inv := by
  obtain ⟨u, hu, ⟨out, rfl⟩ | ⟨e, rfl⟩⟩ := finish_next_of_endsIn hr h
  · exact inv_of_fields hu rfl rfl rfl rfl rfl rfl
  · exact inv_of_fields hu rfl rfl rfl rfl rfl rfl

/-- Every operation keeps the invariants. -/
theorem inv_exec {i : Instr} {s t : State} (hinv : s.Inv) (h : exec i s = .next t) : t.Inv := by
  have hres (v : BitVec 64) : ({ s with res := v } : State).Inv := inv_of_fields hinv rfl rfl rfl rfl rfl rfl
  have hscalar (v : BitVec 64) : (completeScalar s v).EndsIn State.Inv := completeScalar_endsIn hres
  have hguard {c : Prop} [Decidable c] {e : ErrRec} {r : Reply} (hr : r.EndsIn State.Inv) :
      (if c then .raise s e else r).EndsIn State.Inv := ite_endsIn (raise_endsIn hinv) hr
  cases i with
  | nop => exact inv_of_finish (complete_endsIn hinv) h
  | sysReset =>
    have hreset : s.systemReset.Inv :=
      inv_of_fields (inv_resetOf hinv.configured) rfl rfl rfl rfl rfl rfl
    exact inv_of_finish (complete_endsIn hreset) h
  | asmReset =>
    have hreset : s.assemblerReset.Inv :=
      { hinv with assembler := (inv_resetOf hinv.configured).assembler }
    exact inv_of_finish (complete_endsIn hreset) h
  | csrWr r v =>
    obtain ⟨p, d, m, hw⟩ := writeRegister_eq s r v
    have hwrite : (writeRegister s r v).Inv := hw ▸ inv_of_fields hinv rfl rfl rfl rfl rfl rfl
    exact inv_of_finish (hguard (complete_endsIn hwrite)) h
  | csrRd r | calRes | calNum => exact inv_of_finish (hguard (hscalar _)) h
  | calGet f k => exact inv_of_finish (hguard (hguard (hscalar _))) h
  | pxDist c k | pxRefl c k | pxSig c k | pxNoise c k =>
    exact inv_of_finish (pixelOp_endsIn s c k _ _ _ hinv hres) h
  | colTs c | colMid c | colFid c | colEnc c | colValid c | colAzdeg c | colAzrad c =>
    exact inv_of_finish (columnOp_endsIn s c _ _ _ hinv hres) h
  | pktLoad => exact inv_of_finish (loadPacket_inv _ hinv) h
  | calBuiltin m => exact inv_of_finish (loadBuiltin_inv m hinv) h
  | calExt => exact inv_of_finish (loadExternal_inv _ hinv) h
  | cvtLast | cvtStrongest | cvtDual | cvtRuntime => exact inv_of_finish (convert_inv _ hinv) h
  | asmPush src => exact inv_of_finish (pushPoints_inv src hinv) h
  | proc => exact inv_of_finish (processPacket_inv _ hinv) h

/-- So does a command word that is no operation. -/
theorem inv_performWord {w : Word} {s t : State} (hinv : s.Inv) (h : performWord w s = .next t) : t.Inv := by
  rcases performWord_cases w s with ⟨i, -, hw⟩ | ⟨-, hw⟩ <;> rw [hw] at h
  · exact inv_exec hinv h
  · exact inv_of_finish (raise_endsIn hinv) h

/-! ### The statements -/

/-- Settles O45: the next command, performed between its acceptance and the end of its payload. -/
theorem everyStepKeepsTheInvariant : Obligations.EveryStepKeepsTheInvariant := by
  intro s t hinv h
  cases hcmds : s.cmds with
  | nil =>
    rw [step_of_no_cmds hcmds] at h
    cases h
    exact hinv
  | cons cmd rest =>
    rw [step_of_cmds hcmds] at h
    obtain ⟨u, hu, rfl⟩ := (closeOperation_next_iff _ _).mp h
    have haccept : (s.accept cmd rest).Inv := inv_of_fields hinv rfl rfl rfl rfl rfl rfl
    exact inv_of_fields (inv_performWord haccept hu) rfl rfl rfl rfl rfl rfl

/-- Settles O44: the reset configuration is well formed. -/
theorem invariantHoldsAtReset : Obligations.InvariantHoldsAtReset :=
  ⟨inv_resetOf a16_wf, fun _ => inv_resetOf⟩

/-- Settles O36: RUN stops with the queue drained or a frame made, and no error has code 0. -/
theorem oneFrameOrAnEmptyQueue : Obligations.OneFrameOrAnEmptyQueue := by
  intro src s t hinv h hok
  rw [exec_asmPush] at h
  rcases pushPoints_running src hinv with ⟨e, he, hr⟩ | ⟨batch, s1, b, left, -, -, ⟨hr, hend⟩ |
    ⟨e, -, -, he, hr⟩⟩ <;> rw [hr] at h <;> cases h
  · exact absurd hok he
  · cases hframe : b.frameValid with
    | true => exact .inr ⟨by simp [emittedFrame, hframe, Asm.withQueue], hframe⟩
    | false =>
      have hleft : left = [] := hend.resolve_right (by simp [hframe])
      exact .inl ⟨by simp [emittedFrame, hframe], hframe, hleft⟩
  · rcases he with ⟨hcode, -⟩ | ⟨hcode, -⟩
    · exact absurd (hcode.symm.trans hok) (by decide)
    · exact absurd (hcode.symm.trans hok) (by decide)

/-- Settles O38: the points taken and queued, which RUN keeps, are those of the frame and the leftover. -/
theorem noPointIsDropped : Obligations.NoPointIsDropped := by
  intro s t hinv hf hroom h
  rw [exec_asmPush, pushPoints_host_of_withinCap hf hroom] at h
  have hparts (b : Asm) (left : List Point) :
      (if b.frameValid then b.frame.points else []) ++ leftover (b.withQueue left) = taken b ++ left := by
    simp [taken, leftover, Asm.withQueue]
  obtain ⟨b, left, hb, ⟨hr, -⟩ | ⟨e, -, -, -, hr⟩⟩ := runBatch_running s.payload.pts hinv hf hroom <;>
    rw [hr] at h <;> cases h
  · exact (congrArg (List.map unassigned) (hparts b left)).trans hb.kept
  · exact (congrArg (List.map unassigned) (hparts b left)).trans hb.kept

/-- Settles O39: the frame that RUN has made is of whole columns. -/
theorem emittedFrameGeometry : Obligations.EmittedFrameGeometry := by
  intro src s t f hinv h hout
  rw [exec_asmPush] at h
  rcases pushPoints_running src hinv.assembler with ⟨e, -, hr⟩ | ⟨batch, s1, b, left, -, hb, ⟨hr, -⟩ |
    ⟨e, -, -, -, hr⟩⟩ <;> rw [hr] at h <;> cases h
  · cases hout
  · have hsome : emittedFrame b = some f := Output.frame.inj hout
    cases hframe : b.frameValid with
    | true =>
      rw [emittedFrame, if_pos hframe] at hsome
      cases hsome
      exact hb.whole hframe
    | false =>
      rw [emittedFrame, hframe] at hsome
      cases hsome
  · cases hout

/-- Settles O40: the sort inserts point by point. -/
theorem columnSortIsStable : Obligations.ColumnSortIsStable :=
  fun column => ⟨channelsRise_sortByChannel column, filter_sortByChannel column, sortByChannel_of_rise⟩

end Sys2Proof.Proofs
end

section
/-!
PROOFS. Pushes of the host (43_assembler.md). One point waiting or presented (R204 to R209): STEP in its four cases and
the push of a single point, from which the statements about a point inside a column, at a column boundary and at a bad
column are put together. Batches (R221): RUN on a joined queue is RUN on the first part, then on the second.
-/

namespace Sys2Proof.Machine

open Sys2Proof

/-! ### The boundaries (43_assembler.md R204) -/

theorem columnBoundary_eq_true_iff (a : Asm) (p : Point) :
    columnBoundary a p = true ↔ a.prevValid = true ∧ p.ch.toNat < a.prevCh.toNat := by
  rw [columnBoundary, Bool.and_eq_true_iff, decide_eq_true_iff, BitVec.lt_def]

theorem revolutionBoundary_eq_true_iff (a : Asm) (p : Point) :
    revolutionBoundary a p = true ↔ a.prevValid = true ∧ p.az.toNat < a.prevAz.toNat := by
  rw [revolutionBoundary, Bool.and_eq_true_iff, decide_eq_true_iff, BitVec.lt_def]

/-! ### STEP, case by case (43_assembler.md R201) -/

section
variable {cfg : Cfg} {a : Asm} {p : Point}

theorem stepPoint_within (hb : columnBoundary a p = false) :
    stepPoint cfg a p = .ok (appendPoint (finaliseIfBoundary (revolutionBoundary a p) a) p) := by
  rw [stepPoint, flushIfBoundary, hb]
  rfl

/-- The column buffer moved whole into the revolution buffer (43_assembler.md R207). -/
def flushedAsm (a : Asm) : Asm :=
  { a with beamNum := detectedBeams a.colbuf, rev := a.rev ++ [a.colbuf], colbuf := [], colcnt := a.colcnt + 1 }

theorem flushColumn_of_full (hlen : a.colbuf.length = cfg.beamCount) (hroom : cfg.revCap ≠ some a.rev.length) :
    flushColumn cfg a = .ok (flushedAsm a) :=
  (if_neg (not_not.mpr hlen)).trans (if_neg hroom)

theorem stepPoint_closing (hb : columnBoundary a p = true) (hlen : a.colbuf.length = cfg.beamCount)
    (hroom : cfg.revCap ≠ some a.rev.length) :
    stepPoint cfg a p = .ok (appendPoint (finaliseIfBoundary (revolutionBoundary a p) (flushedAsm a)) p) := by
  rw [stepPoint, flushIfBoundary, if_pos hb, flushColumn_of_full hlen hroom]

theorem stepPoint_bad {e : ErrRec} (hb : columnBoundary a p = true) (hf : flushColumn cfg a = .raise e) :
    stepPoint cfg a p = .raise e := by
  rw [stepPoint, flushIfBoundary, if_pos hb, hf]

theorem finaliseIfBoundary_of_pos {boundary : Bool} (hb : boundary = true) (hne : a.rev ≠ []) :
    finaliseIfBoundary boundary a = finaliseFrame a := by
  rcases finaliseIfBoundary_cases boundary a with ⟨-, -, h⟩ | ⟨hb' | hrev, -⟩
  · exact h
  · exact absurd (hb'.symm.trans hb) Bool.false_ne_true
  · exact absurd hrev hne

theorem finaliseIfBoundary_of_neg {boundary : Bool} (h : ¬(boundary = true ∧ a.rev ≠ [])) :
    finaliseIfBoundary boundary a = a := by
  rcases finaliseIfBoundary_cases boundary a with ⟨hb, hne, -⟩ | ⟨-, hr⟩
  · exact absurd ⟨hb, hne⟩ h
  · exact hr

/-- The frame of rising columns is the columns as they are (43_assembler.md R208, R210). -/
theorem finaliseFrame_of_rise (h : ∀ column ∈ a.rev, ChannelsRise column) :
    finaliseFrame a =
      { a with
        frame := { points := a.rev.flatten, height := a.beamNum, width := BitVec.ofNat 32 a.rev.length }
        frameValid := true
        rev := []
        colcnt := 0 } := by
  rw [finaliseFrame, flatMap_sortByChannel h]

end

end Sys2Proof.Machine

namespace Sys2Proof.Proofs

open Sys2Proof Sys2Proof.Machine Sys2Proof.Claims

/-! ### A push of one point -/

section
variable {s : State} {p : Point}

/-- With one point waiting or presented there is room for the push where there is room for one point. -/
theorem pushPoints_of_one (hf : s.asm.fatal = false) (hone : s.asm.inq ++ s.payload.pts = [p])
    (hroom : WithinCap s.cfg.inqCap 1) : pushPoints .host s = runBatch s.payload.pts s := by
  refine pushPoints_host_of_withinCap hf ?_
  rwa [← List.length_append, hone]

/-- A push of one point whose STEP does not raise. -/
theorem exec_push_one_ok {a : Asm} (hf : s.asm.fatal = false) (hone : s.asm.inq ++ s.payload.pts = [p])
    (hroom : WithinCap s.cfg.inqCap 1) (hs : stepPoint s.cfg (clearFrame s.asm) p = .ok a) :
    exec (.asmPush .host) s = completesOk { s with asm := a.withQueue [] } (.frame (emittedFrame a)) := by
  have hrun : runQueue s.cfg [p] (clearFrame s.asm) = { asm := a.withQueue [], raised := none } :=
    runQueue_cons_ok _ _ _ _ _ rfl hs
  rw [exec_asmPush, pushPoints_of_one hf hone hroom]
  simp only [runBatch, clearFrame_inq, hone, hrun]
  rfl

/-- A push of one point whose STEP raises. -/
theorem exec_push_one_raise {e : ErrRec} (hf : s.asm.fatal = false) (hone : s.asm.inq ++ s.payload.pts = [p])
    (hroom : WithinCap s.cfg.inqCap 1) (hs : stepPoint s.cfg (clearFrame s.asm) p = .raise e) :
    exec (.asmPush .host) s =
      .next (({ s with asm := latchFatal ((clearFrame s.asm).withQueue [p]) e } : State).raised e) := by
  have hrun := runQueue_cons_raise s.cfg p [] (clearFrame s.asm) e rfl hs
  rw [exec_asmPush, pushPoints_of_one hf hone hroom]
  simp only [runBatch, clearFrame_inq, hone, hrun]
  rfl

end

/-- Settles O30: STEP without a flush. -/
theorem pointWithinAColumn : Obligations.PointWithinAColumn := by
  intro s p hinv hf hone hroom hch
  have hb : columnBoundary (clearFrame s.asm) p = false := by
    rw [Bool.eq_false_iff, Ne, columnBoundary_eq_true_iff]
    rintro ⟨hvalid, hlt⟩
    exact hlt.not_ge (hch hvalid)
  have hrevolution := revolutionBoundary_eq_true_iff (clearFrame s.asm) p
  have hstep := stepPoint_within (cfg := s.cfg) hb
  refine ⟨fun hdrop => ?_, fun hdrop hne => ?_⟩
  · have hnone : ¬(revolutionBoundary (clearFrame s.asm) p = true ∧ (clearFrame s.asm).rev ≠ []) :=
      fun ⟨hdrop', hne⟩ => hdrop ⟨hrevolution.mp hdrop', hne⟩
    rw [finaliseIfBoundary_of_neg hnone] at hstep
    exact exec_push_one_ok hf hone hroom hstep
  · rw [finaliseIfBoundary_of_pos (a := clearFrame s.asm) (hrevolution.mpr hdrop) hne,
      finaliseFrame_of_rise (a := clearFrame s.asm) hinv.columnsRise] at hstep
    exact exec_push_one_ok hf hone hroom hstep

/-- Settles O31: STEP with a flush, whose detected beam count is that of the previous point. -/
theorem pointThatClosesAColumn : Obligations.PointThatClosesAColumn := by
  intro s p hinv hf hone hroom hvalid hch hlen hrev
  have hb : columnBoundary (clearFrame s.asm) p = true := (columnBoundary_eq_true_iff _ _).mpr ⟨hvalid, hch⟩
  have hrevolution := revolutionBoundary_eq_true_iff (clearFrame s.asm) p
  have hbeams : detectedBeams s.asm.colbuf = s.asm.prevCh + 1 := by
    obtain ⟨q, hq, hprev, -⟩ := hinv.previous hvalid
    rw [detectedBeams, hq, hprev]
  have hstep := stepPoint_closing hb hlen hrev
  refine ⟨fun hle => ?_, fun hlt => ?_⟩
  · have hnone : ¬(revolutionBoundary (clearFrame s.asm) p = true ∧ (flushedAsm (clearFrame s.asm)).rev ≠ []) :=
      fun ⟨hdrop, _⟩ => (hrevolution.mp hdrop).2.not_ge hle
    rw [finaliseIfBoundary_of_neg hnone] at hstep
    rw [exec_push_one_ok hf hone hroom hstep, ← hbeams]
    simp only [hvalid]
    rfl
  · have hrise : ∀ column ∈ (flushedAsm (clearFrame s.asm)).rev, ChannelsRise column := fun column hc => by
      rcases List.mem_append.mp hc with hc | hc
      · exact hinv.columnsRise column hc
      · rw [List.mem_singleton.mp hc]
        exact hinv.bufferRises
    rw [finaliseIfBoundary_of_pos (hrevolution.mpr ⟨hvalid, hlt⟩) (by simp [flushedAsm]),
      finaliseFrame_of_rise hrise] at hstep
    rw [exec_push_one_ok hf hone hroom hstep]
    simp [completesOk, emittedFrame, Asm.withQueue, appendPoint, flushedAsm, hvalid, hbeams]

/-- Settles O32: STEP with a flush that raises. -/
theorem badColumnIsFatal : Obligations.BadColumnIsFatal := by
  intro s p hf hone hroom hvalid hch
  have hb : columnBoundary (clearFrame s.asm) p = true := (columnBoundary_eq_true_iff _ _).mpr ⟨hvalid, hch⟩
  refine ⟨fun hlen => ?_, fun hlen cap hcap hfull => ?_⟩
  · exact exec_push_one_raise hf hone hroom (stepPoint_bad hb (if_pos hlen))
  · subst hfull
    exact exec_push_one_raise hf hone hroom
      (stepPoint_bad hb ((if_neg (not_not.mpr hlen)).trans (if_pos hcap)))

/-! ### A push turned away (43_assembler.md R218) -/

theorem withRoom_of_exceeded {s : State} {batch : List Point} {cap : Nat} (accepted : Reply)
    (hcap : s.cfg.inqCap = some cap) (h : cap < s.asm.inq.length + batch.length) :
    withRoom batch s accepted = .raise s (mkErr .bufferOverflow 1 cap (s.asm.inq.length + batch.length)) := by
  simp [withRoom, exceeds, hcap, h]

/-- Settles O34: the checks of a push in their order. -/
theorem pushTurnedAwayChangesNothing : Obligations.PushTurnedAwayChangesNothing := by
  intro s hf
  have hpush (src : PushSource) : pushPoints src s =
      match src with
      | .pts => pushConverted s
      | .host => withRoom s.payload.pts s (runBatch s.payload.pts s) := if_neg (Bool.eq_false_iff.mp hf)
  refine ⟨fun hp => ?_, fun cap hcap => ⟨fun h => ?_, fun points hp h => ?_, fun pairs hp h => ?_⟩⟩
  · rw [exec_asmPush, hpush, pushConverted, hp]
    rfl
  · rw [exec_asmPush, hpush, withRoom_of_exceeded _ hcap h]
    rfl
  · rw [exec_asmPush, hpush, pushConverted, hp]
    exact congrArg finish (withRoom_of_exceeded _ hcap h)
  · have hlength : (feed s.dualsel (.dual pairs)).length = pairs.length := List.length_map _
    rw [← hlength] at h ⊢
    rw [exec_asmPush, hpush, pushConverted, hp]
    exact congrArg finish (withRoom_of_exceeded _ hcap h)

/-! ### A joined queue (43_assembler.md R221) -/

/-- RUN on a joined queue goes on where RUN on the first part has drained it. -/
theorem runQueue_append_of_drained {cfg : Cfg} {first : List Point} {a b : Asm} (second : List Point)
    (hr : runQueue cfg first a = { asm := b, raised := none }) (hb : b.frameValid = false) :
    runQueue cfg (first ++ second) a = runQueue cfg second b := by
  induction first generalizing a with
  | nil =>
    rw [runQueue_nil] at hr
    cases hr
    exact (runQueue_withQueue cfg second a []).symm
  | cons p rest ih =>
    cases hframe : a.frameValid with
    | true =>
      rw [runQueue_cons_frame cfg p rest a hframe] at hr
      cases hr
      exact absurd (hframe.symm.trans hb) (by decide)
    | false =>
      cases hs : stepPoint cfg a p with
      | raise e =>
        rw [runQueue_cons_raise cfg p rest a e hframe hs] at hr
        cases hr
      | ok a' =>
        rw [runQueue_cons_ok cfg p rest a a' hframe hs] at hr
        rw [List.cons_append, runQueue_cons_ok cfg p _ a a' hframe hs]
        exact ih hr

/-- RUN on a joined queue stops where RUN on the first part has made a frame, the second part queued behind. -/
theorem runQueue_append_of_framed {cfg : Cfg} {first : List Point} {a b : Asm} (second : List Point)
    (hr : runQueue cfg first a = { asm := b, raised := none }) (hb : b.frameValid = true) :
    runQueue cfg (first ++ second) a = { asm := b.withQueue (b.inq ++ second), raised := none } := by
  have stopped (queue : List Point) (a : Asm) (hframe : a.frameValid = true) :
      runQueue cfg queue a = { asm := a.withQueue queue, raised := none } := by
    cases queue with
    | nil => rfl
    | cons p rest => exact runQueue_cons_frame cfg p rest a hframe
  induction first generalizing a with
  | nil =>
    rw [runQueue_nil] at hr
    cases hr
    exact stopped second a hb
  | cons p rest ih =>
    cases hframe : a.frameValid with
    | true =>
      rw [stopped _ a hframe] at hr ⊢
      cases hr
      rfl
    | false =>
      cases hs : stepPoint cfg a p with
      | raise e =>
        rw [runQueue_cons_raise cfg p rest a e hframe hs] at hr
        cases hr
      | ok a' =>
        rw [runQueue_cons_ok cfg p rest a a' hframe hs] at hr
        rw [List.cons_append, runQueue_cons_ok cfg p _ a a' hframe hs]
        exact ih hr

/-- STEP makes a frame or leaves the slot as it was. -/
theorem stepPoint_slot {cfg : Cfg} {a a' : Asm} {p : Point} (hs : stepPoint cfg a p = .ok a') :
    a'.frameValid = true ∨ (a'.frameValid = a.frameValid ∧ a'.frame = a.frame) := by
  rcases stepPoint_cases cfg a p with ⟨e, -, -, hr⟩ | ⟨flushed, hflush, hr⟩ <;> rw [hr] at hs <;> cases hs
  have hslot : flushed.frameValid = a.frameValid ∧ flushed.frame = a.frame := by
    rcases hflush with ⟨-, hf⟩ | ⟨-, rfl⟩
    · rcases flushColumn_cases cfg a with ⟨-, hr⟩ | ⟨-, -, hr⟩ | ⟨-, -, hr⟩ <;> rw [hr] at hf <;> cases hf
      exact ⟨rfl, rfl⟩
    · exact ⟨rfl, rfl⟩
  rcases finaliseIfBoundary_cases (revolutionBoundary a p) flushed with ⟨-, -, hr⟩ | ⟨-, hr⟩ <;> rw [hr]
  · exact .inl rfl
  · exact .inr hslot

/-- What a push hands to the next one: FATAL clear, and an empty slot where there is no frame. -/
def CleanSlot (a : Asm) : Prop := a.fatal = false ∧ (a.frameValid = false → a.frame = Frame.empty)

theorem cleanSlot_stepPoint {cfg : Cfg} {a a' : Asm} {p : Point} (h : CleanSlot a)
    (hs : stepPoint cfg a p = .ok a') : CleanSlot a' := by
  obtain ⟨-, hfatal, -⟩ := stepPoint_keeps cfg a a' p hs
  obtain ⟨hf, hslot⟩ := h
  refine ⟨hfatal.trans hf, fun hframe' => ?_⟩
  rcases stepPoint_slot hs with hframe | ⟨hflag, hframe⟩
  · exact absurd (hframe.symm.trans hframe') (by decide)
  · exact hframe.trans (hslot (hflag.symm.trans hframe'))

theorem cleanSlot_runQueue {cfg : Cfg} {queue : List Point} {a b : Asm} (h : CleanSlot a)
    (hr : runQueue cfg queue a = { asm := b, raised := none }) : CleanSlot b := by
  obtain ⟨c, left, hc, ⟨hrun, -⟩ | ⟨e, p, -, -, -, hrun⟩⟩ :=
    runQueue_induct cfg CleanSlot (fun _ _ _ _ h hs => cleanSlot_stepPoint h hs) queue a h <;>
    rw [hrun] at hr <;> cases hr
  exact hc

/-- Without a frame the next push finds the slot as it would leave it. -/
theorem clearFrame_of_cleanSlot {a : Asm} (h : CleanSlot a) (hframe : a.frameValid = false) : clearFrame a = a := by
  obtain ⟨-, hslot⟩ := h
  rw [clearFrame, ← hframe, ← hslot hframe]

/-! ### Successive pushes (43_assembler.md R221) -/

/-- RUN drains its queue unless it makes a frame. -/
theorem inq_of_runQueue {cfg : Cfg} {queue : List Point} {a b : Asm}
    (hr : runQueue cfg queue a = { asm := b, raised := none }) (hframe : b.frameValid = false) : b.inq = [] := by
  obtain ⟨c, left, -, ⟨hrun, hend⟩ | ⟨e, p, -, -, -, hrun⟩⟩ :=
    runQueue_induct cfg (fun _ => True) (fun _ _ _ _ _ _ => trivial) queue a trivial <;>
    rw [hrun] at hr <;> cases hr
  exact hend.resolve_right fun h => absurd (h.symm.trans hframe) (by decide)

/-- The rule of a host push that has room: RUN on the waiting points and the batch. -/
theorem exec_push_presenting {s : State} {batch : List Point} (hf : s.asm.fatal = false)
    (hroom : WithinCap s.cfg.inqCap (s.asm.inq.length + batch.length)) :
    exec (.asmPush .host) (presenting s batch) = finish (runBatch batch (presenting s batch)) :=
  congrArg finish (pushPoints_host_of_withinCap (s := presenting s batch) hf hroom)

/-- The end of a batch in terms of its RUN. -/
def batchEnd (s : State) (r : RunResult) : Reply :=
  match r.raised with
  | some e => .raise { s with asm := r.asm } e
  | none => .complete { s with asm := r.asm } (.frame (emittedFrame r.asm))

theorem runBatch_eq (batch : List Point) (s : State) :
    runBatch batch s = batchEnd s (runQueue s.cfg (s.asm.inq ++ batch) (clearFrame s.asm)) := by
  rcases runBatch_cases batch s with ⟨r, e, rfl, he, h⟩ | ⟨r, rfl, he, h⟩ <;> rw [h, batchEnd, he]

/-- The payload, the assembler and the completion of the state before RUN do not reach its end, but for the payload
that stays presented. -/
theorem finish_batchEnd_presenting (s : State) (r : RunResult) (a : Asm) (e : ErrRec) (out : Output)
    (points points' : List Point) :
    ∃ u, finish (batchEnd (presenting s points) r) = .next u ∧
      finish (batchEnd (presenting { s with asm := a, err := e, output := out } points') r) =
        .next (presenting u points') := by
  unfold batchEnd
  cases r.raised with
  | some e => exact ⟨_, rfl, rfl⟩
  | none => exact ⟨_, rfl, rfl⟩

/-- A push that completes with code 0 has run its batch without an error. -/
theorem batchEnd_completed {s t : State} {r : RunResult} (hknown : ∀ e, r.raised = some e → KnownCode e)
    (h : finish (batchEnd s r) = .next t) (hok : t.err.code = 0) :
    ∃ b, r = { asm := b, raised := none } ∧
      t = ({ s with asm := b } : State).completed (.frame (emittedFrame b)) := by
  obtain ⟨b, _ | e⟩ := r
  · cases h
    exact ⟨b, rfl, rfl⟩
  · cases h
    exact absurd hok (hknown e rfl).code_ne_zero

/-- The emitted frame of a push that made none. -/
theorem emittedFrame_eq_none_iff (a : Asm) : emittedFrame a = none ↔ a.frameValid = false := by
  rw [emittedFrame]
  cases a.frameValid <;> simp

/-- One push of both batches, in terms of what RUN on the first leaves: without a frame the second push goes on
from there; with one it is only queued. -/
theorem push_joined {s : State} {first second : List Point} {b : Asm} (hf : s.asm.fatal = false)
    (hroom : WithinCap s.cfg.inqCap (s.asm.inq.length + first.length + second.length))
    (hr : runQueue s.cfg (s.asm.inq ++ first) (clearFrame s.asm) = { asm := b, raised := none }) :
    (b.frameValid = false →
      ∃ u, exec (.asmPush .host) (presenting s (first ++ second)) = .next u ∧
        exec (.asmPush .host) (presenting { s with asm := b, err := .ok, output := .frame (emittedFrame b) } second) =
          .next (presenting u second)) ∧
    (b.frameValid = true →
      exec (.asmPush .host) (presenting s (first ++ second)) =
        finish (.complete { presenting s (first ++ second) with asm := b.withQueue (b.inq ++ second) }
          (.frame (emittedFrame b)))) := by
  have hjoined : exec (.asmPush .host) (presenting s (first ++ second)) =
      finish (batchEnd (presenting s (first ++ second))
        (runQueue s.cfg (s.asm.inq ++ first ++ second) (clearFrame s.asm))) := by
    rw [exec_push_presenting hf (by rwa [List.length_append, ← Nat.add_assoc]), runBatch_eq, List.append_assoc]
    rfl
  rw [hjoined]
  refine ⟨fun hframe => ?_, fun hframe => ?_⟩
  · have hclean := cleanSlot_runQueue (a := clearFrame s.asm) ⟨hf, fun _ => rfl⟩ hr
    have hinq := inq_of_runQueue hr hframe
    have hsecond : WithinCap s.cfg.inqCap (b.inq.length + second.length) := fun limit hlimit => by
      have hle := hroom limit hlimit
      rw [hinq, List.length_nil]
      omega
    rw [exec_push_presenting hclean.1 hsecond, runBatch_eq, runQueue_append_of_drained second hr hframe]
    obtain ⟨u, hu, hu'⟩ := finish_batchEnd_presenting s (runQueue s.cfg second b) b .ok (.frame (emittedFrame b))
      (first ++ second) second
    refine ⟨u, hu, ?_⟩
    rw [← hu']
    change finish (batchEnd _ (runQueue s.cfg (b.inq ++ second) (clearFrame b))) = _
    rw [hinq, clearFrame_of_cleanSlot hclean hframe]
    rfl
  · rw [runQueue_append_of_framed second hr hframe]
    rfl

/-- Settles O37: RUN on a joined queue, then the queue of waiting points as the head of the batch. -/
theorem splittingABatchChangesNothing : Obligations.SplittingABatchChangesNothing := by
  refine ⟨fun s t first second hf hroom h hok => ?_, fun s t waiting batch hf hroom h => ?_⟩
  · have hfirst : WithinCap s.cfg.inqCap (s.asm.inq.length + first.length) := fun limit hlimit => by
      have hle := hroom limit hlimit
      omega
    rw [exec_push_presenting hf hfirst, runBatch_eq] at h
    obtain ⟨b, hr, rfl⟩ := batchEnd_completed (fun e he => knownCode_of_runQueue he) h hok
    obtain ⟨hnone, hsome⟩ := push_joined (second := second) hf hroom hr
    refine ⟨fun hout => ?_, fun f hout => ?_⟩
    · exact hnone ((emittedFrame_eq_none_iff b).mp (Output.frame.inj hout))
    · have hemitted : emittedFrame b = some f := Output.frame.inj hout
      have hframe : b.frameValid = true := by
        by_contra hne
        rw [(emittedFrame_eq_none_iff b).mpr (by simpa using hne)] at hemitted
        cases hemitted
      exact hsome hframe
  · have hwaiting : WithinCap s.cfg.inqCap ((waiting ++ batch).length) := by
      rwa [List.length_append]
    rw [exec_push_presenting (s := { s with asm := { s.asm with inq := [] } }) hf (by simpa using hwaiting),
      runBatch_eq] at h
    rw [exec_push_presenting (s := { s with asm := { s.asm with inq := waiting } }) hf hroom, runBatch_eq]
    have hrun (queue : List Point) : runQueue s.cfg (waiting ++ batch) (clearFrame { s.asm with inq := queue }) =
        runQueue s.cfg (waiting ++ batch) (clearFrame s.asm) :=
      runQueue_withQueue s.cfg (waiting ++ batch) (clearFrame s.asm) queue
    obtain ⟨u, hu, hu'⟩ := finish_batchEnd_presenting { s with asm := { s.asm with inq := [] } }
      (runQueue s.cfg (waiting ++ batch) (clearFrame s.asm)) { s.asm with inq := waiting } s.err s.output
      (waiting ++ batch) batch
    have htu : u = t := by
      change finish (batchEnd _ (runQueue s.cfg (waiting ++ batch) (clearFrame { s.asm with inq := [] }))) = _ at h
      rw [hrun] at h
      rw [hu] at h
      exact Host.Outcome.next.inj h
    change finish (batchEnd _ (runQueue s.cfg (waiting ++ batch) (clearFrame { s.asm with inq := waiting }))) = _
    rw [hrun, ← htu]
    exact hu'

end Sys2Proof.Proofs
end

section
/-!
PROOFS. The pipeline (43_assembler.md R230) and what it does not see (20_memory.md R61, 30_encoding.md R94). A map of
states that touches no field which a rule reads and stays out of the way of its writes passes through the rule; so the
stages of `PROC` do as the operations do after a completion, and a packet acts only by the fields that are read from it.
-/

namespace Sys2Proof.Machine

open Sys2Proof Sys2Proof.Proofs

/-! ### Maps of states that pass through a rule -/

/-- The states of a reply under `f`; its error, output and stop as they are. -/
def Reply.mapState (f : State → State) : Reply → Reply
  | .complete s out => .complete (f s) out
  | .raise s e => .raise (f s) e
  | .fault x => .fault x
  | .refused r => .refused r

/-- `f` keeps what a conversion (but for the packet's bytes) and a push read, and commutes with what they write. -/
structure Transparent (f : State → State) : Prop where
  cfg (s : State) : (f s).cfg = s.cfg
  policy (s : State) : (f s).policy = s.policy
  retmode (s : State) : (f s).retmode = s.retmode
  dualsel (s : State) : (f s).dualsel = s.dualsel
  pktOk (s : State) : (f s).pktOk = s.pktOk
  calOk (s : State) : (f s).calOk = s.calOk
  cal (s : State) : (f s).cal = s.cal
  pts (s : State) : (f s).pts = s.pts
  asm (s : State) : (f s).asm = s.asm
  hostPoints (s : State) : (f s).payload.pts = s.payload.pts
  writePts (s : State) (p : Pts) : { f s with pts := p } = f { s with pts := p }
  writeAsm (s : State) (a : Asm) : { f s with asm := a } = f { s with asm := a }

/-- The completion of the operation before is such a map: no rule reads it. -/
theorem transparent_completed (out : Output) : Transparent (·.completed out) := by
  constructor <;> intros <;> rfl

/-- So is another packet in the buffer. -/
theorem transparent_pkt (m : Memory) : Transparent fun s => { s with pkt := m } := by
  constructor <;> intros <;> rfl

/-- So is another packet presented and loaded. -/
theorem transparent_packet (rx : List Byte) (m : Memory) :
    Transparent fun s => { s with payload := { s.payload with rx := rx }, pkt := m } := by
  constructor <;> intros <;> rfl

section
variable {f : State → State} {s : State}

/-- A conversion sees the packet by its points only. -/
theorem convert_mapState (hf : Transparent f) (policy : Policy)
    (hsingle : ∀ tag, singlePoints s.cfg (f s).pkt s.cal tag = singlePoints s.cfg s.pkt s.cal tag)
    (hdual : dualPairs s.cfg (f s).pkt s.cal = dualPairs s.cfg s.pkt s.cal) :
    convert policy (f s) = (convert policy s).mapState f := by
  have hfails (e : ErrRec) : conversionFails (f s) e = (conversionFails s e).mapState f :=
    congrArg (Reply.raise · e) (hf.writePts s .none)
  have hgives (p : Pts) : conversionGives (f s) p = (conversionGives s p).mapState f :=
    congrArg (Reply.complete · (.points p)) (hf.writePts s p)
  unfold convert
  rw [hf.pktOk, hf.calOk, hf.retmode, hf.cal, hf.cfg]
  simp only [hfails, hgives, hsingle, hdual]
  by_cases hp : s.pktOk = false
  · rw [if_pos hp, if_pos hp]
  rw [if_neg hp, if_neg hp]
  by_cases hc : s.calOk = false
  · rw [if_pos hc, if_pos hc]
  rw [if_neg hc, if_neg hc]
  cases resolvePolicy policy s.retmode with
  | none => rfl
  | some form =>
    by_cases hn : s.cal.num.toNat ≠ s.cfg.N
    · simp only [if_pos hn]
    · simp only [if_neg hn]
      cases form with
      | single tag => rfl
      | dual =>
        by_cases hodd : s.cfg.C % 2 = 1
        · simp only [if_pos hodd]
          rfl
        · simp only [if_neg hodd]

theorem runBatch_mapState (hf : Transparent f) (batch : List Point) :
    runBatch batch (f s) = (runBatch batch s).mapState f := by
  rw [runBatch_eq, runBatch_eq, hf.asm, hf.cfg]
  generalize runQueue s.cfg (s.asm.inq ++ batch) (clearFrame s.asm) = r
  obtain ⟨a, _ | e⟩ := r
  · exact congrArg (Reply.complete · _) (hf.writeAsm s a)
  · exact congrArg (Reply.raise · e) (hf.writeAsm s a)

theorem withRoom_mapState (hf : Transparent f) (batch : List Point) (s1 : State) :
    withRoom batch (f s) (runBatch batch (f s1)) = (withRoom batch s (runBatch batch s1)).mapState f := by
  rw [runBatch_mapState hf, withRoom, withRoom, hf.asm, hf.cfg]
  cases exceeds s.cfg.inqCap (s.asm.inq.length + batch.length) <;> rfl

theorem pushConverted_mapState (hf : Transparent f) : pushConverted (f s) = (pushConverted s).mapState f := by
  have hrun (batch : List Point) : withRoom batch (f s) (runBatch batch { f s with pts := .none }) =
      (withRoom batch s (runBatch batch { s with pts := .none })).mapState f := by
    rw [hf.writePts s .none]
    exact withRoom_mapState hf batch _
  unfold pushConverted
  rw [hf.pts]
  cases s.pts with
  | none => rfl
  | single points => exact hrun points
  | dual pairs => exact (hrun (feed (f s).dualsel (.dual pairs))).trans (by rw [hf.dualsel])

theorem pushPoints_mapState (hf : Transparent f) (src : PushSource) :
    pushPoints src (f s) = (pushPoints src s).mapState f := by
  unfold pushPoints
  rw [hf.asm, hf.hostPoints]
  cases s.asm.fatal with
  | true => rfl
  | false =>
    cases src with
    | pts => exact pushConverted_mapState hf
    | host => exact withRoom_mapState hf s.payload.pts s

/-- The last two stages of `PROC` from a state in which the packet is loaded. -/
theorem stages_mapState (hf : Transparent f) (policy : Policy)
    (hsingle : ∀ tag, singlePoints s.cfg (f s).pkt s.cal tag = singlePoints s.cfg s.pkt s.cal tag)
    (hdual : dualPairs s.cfg (f s).pkt s.cal = dualPairs s.cfg s.pkt s.cal) :
    andThen (convert policy (f s)) (pushPoints .pts) =
      (andThen (convert policy s) (pushPoints .pts)).mapState f := by
  rw [convert_mapState hf policy hsingle hdual]
  cases convert policy s with
  | complete u out => exact pushPoints_mapState hf .pts
  | raise u e | fault x | refused r => rfl

end

/-- The completion of an operation does not show the completion of the one before. -/
theorem finish_mapState_completed (r : Reply) (out : Output) : finish (r.mapState (·.completed out)) = finish r := by
  cases r <;> rfl

/-- With the packet accepted, `PROC` is its last two stages. -/
theorem processPacket_of_length {rx : List Byte} {s : State} (hf : s.asm.fatal = false)
    (hlen : rx.length = pktLen s.cfg) :
    processPacket rx s =
      andThen (convert s.policy { s with pkt := Memory.ofBytes rx, pktOk := true }) (pushPoints .pts) := by
  rw [processPacket, if_neg (Bool.eq_false_iff.mp hf), loadPacket, if_pos hlen]
  rfl

/-- With the packet turned away, `PROC` ends as the load does. -/
theorem processPacket_of_length_ne {rx : List Byte} {s : State} (hf : s.asm.fatal = false)
    (hlen : rx.length ≠ pktLen s.cfg) : processPacket rx s = loadPacket rx s := by
  rw [processPacket, if_neg (Bool.eq_false_iff.mp hf), loadPacket, if_neg hlen]
  rfl

end Sys2Proof.Machine

namespace Sys2Proof.Proofs

open Sys2Proof Sys2Proof.Machine Sys2Proof.Claims

/-! ### The three stages of `PROC` -/

/-- The last two stages as operations: the load's completion passes through the conversion, and the conversion's
through the push. -/
theorem proc_of_loaded {s s1 : State} (hasm : s1.asm = s.asm)
    (hproc : exec .proc s = finish (andThen (convert s.policy s1) (pushPoints .pts))) :
    (∀ r, exec (conversionOf s.policy) (s1.completed .none) = .refused r → exec .proc s = .refused r) ∧
    (∀ converted, exec (conversionOf s.policy) (s1.completed .none) = .next converted →
      (converted.err.code ≠ 0 → exec .proc s = .next converted ∧ converted.asm = s.asm) ∧
      (converted.err.code = 0 → exec .proc s = exec (.asmPush .pts) converted)) := by
  have hconv : exec (conversionOf s.policy) (s1.completed .none) = finish (convert s.policy s1) := by
    rw [exec_conversionOf, convert_mapState (transparent_completed .none) s.policy (fun _ => rfl) rfl,
      finish_mapState_completed]
  have hkeeps := convert_endsIn (P := (·.asm = s1.asm)) s.policy s1 fun _ => rfl
  rw [hconv, hproc]
  cases hc : convert s.policy s1 with
  | fault x => exact ⟨(fun _ h => nomatch h), (fun _ h => nomatch h)⟩
  | refused w => exact ⟨fun _ h => h, (fun _ h => nomatch h)⟩
  | raise s2 e =>
    rw [hc] at hkeeps
    refine ⟨(fun _ h => nomatch h), fun converted h => ?_⟩
    obtain rfl : s2.raised e = converted := Host.Outcome.next.inj h
    exact ⟨fun _ => ⟨rfl, Eq.trans hkeeps hasm⟩, fun hok => absurd hok (knownCode_of_convert hc).code_ne_zero⟩
  | complete s2 out =>
    refine ⟨(fun _ h => nomatch h), fun converted h => ?_⟩
    obtain rfl : s2.completed out = converted := Host.Outcome.next.inj h
    refine ⟨fun herr => absurd rfl herr, fun _ => ?_⟩
    rw [exec_asmPush, pushPoints_mapState (transparent_completed out), finish_mapState_completed, andThen]

/-- Settles O42: the load turned away or accepted, then the other two stages. -/
theorem procIsTheThreeStages : Obligations.ProcIsTheThreeStages := by
  refine ⟨by decide, fun s => ⟨fun hf => exec_feeder_of_fatal (.inr rfl) hf, fun hf loaded hload => ?_⟩⟩
  by_cases hlen : s.payload.rx.length = pktLen s.cfg
  · rw [exec_pktLoad_of_length hlen] at hload
    obtain rfl := Host.Outcome.next.inj hload
    refine ⟨fun herr => absurd rfl herr, fun _ => ?_⟩
    exact proc_of_loaded (s1 := { s with pkt := Memory.ofBytes s.payload.rx, pktOk := true }) rfl
      (congrArg finish (processPacket_of_length hf hlen))
  · have hproc : exec .proc s = exec .pktLoad s := congrArg finish (processPacket_of_length_ne hf hlen)
    rw [hproc, hload]
    rw [exec_pktLoad_of_length_ne hlen] at hload
    obtain rfl := Host.Outcome.next.inj hload
    exact ⟨fun _ => ⟨rfl, rfl⟩, fun hok => absurd hok (knownCode_mkErr .malformedPacket 0 _ _).code_ne_zero⟩

/-! ### The fields of a packet and its other bytes (20_memory.md R61, 30_encoding.md R94) -/

/-- A byte of the packet is in one column only. -/
theorem column_offset_inj {L c c' o o' : Nat} (h : c * L + o = c' * L + o') (ho : o < L) (ho' : o' < L) :
    c = c' ∧ o = o' := by
  have hdiv (c o : Nat) (ho : o < L) : (c * L + o) / L = c := by
    rw [Nat.mul_comm, Nat.mul_add_div (by omega), Nat.div_eq_of_lt ho, Nat.add_zero]
  have hc : c = c' := by rw [← hdiv c o ho, ← hdiv c' o' ho', h]
  subst hc
  exact ⟨rfl, by omega⟩

section
variable {cfg : Cfg} {m m' : Memory} {c : Nat}

/-- The bytes of a column at which two packets agree: all but the reserved ones and the padding of each pixel. -/
theorem readByte_same (h : SamePacket cfg m m') {o : Nat} (ho : o < colLen cfg)
    (hfree : ∀ k, k < cfg.N →
      o ≠ 16 + 12 * k + 2 ∧ o ≠ 16 + 12 * k + 3 ∧ o ≠ 16 + 12 * k + 10 ∧ o ≠ 16 + 12 * k + 11) :
    Memory.readByte m (colBase cfg c + o) = Memory.readByte m' (colBase cfg c + o) := by
  obtain ⟨hbytes, -⟩ := h
  refine hbytes _ fun c' k _ hk => ?_
  obtain ⟨h2, h3, h10, h11⟩ := hfree k hk
  have hne (j : Nat) (hj : j < 12) (hoff : o ≠ 16 + 12 * k + j) :
      colBase cfg c + o ≠ c' * (20 + 12 * cfg.N) + 16 + 12 * k + j := fun heq => by
    have heq' : c * colLen cfg + o = c' * colLen cfg + (16 + 12 * k + j) := by
      rw [colBase] at heq
      rw [heq, colLen]
      omega
    exact hoff (column_offset_inj heq' ho (by rw [colLen]; omega)).2
  exact ⟨hne 2 (by decide) h2, hne 3 (by decide) h3, hne 10 (by decide) h10, hne 11 (by decide) h11⟩

/-- A field away from those bytes reads alike. -/
theorem memRead_same (h : SamePacket cfg m m') {o n : Nat} (ho : o + n ≤ colLen cfg)
    (hfree : ∀ i k, i < n → k < cfg.N →
      o + i ≠ 16 + 12 * k + 2 ∧ o + i ≠ 16 + 12 * k + 3 ∧
        o + i ≠ 16 + 12 * k + 10 ∧ o + i ≠ 16 + 12 * k + 11) :
    memRead m (colBase cfg c + o) n = memRead m' (colBase cfg c + o) n :=
  memRead_congr _ _ _ _ fun i hi => by
    rw [Nat.add_assoc]
    exact readByte_same h (by omega) fun k hk => hfree i k hi hk

theorem columnTs_same (h : SamePacket cfg m m') : columnTs cfg m c = columnTs cfg m' c :=
  congrArg (BitVec.ofNat 64)
    (memRead_same (o := 0) h (by rw [colLen]; omega) fun _ _ _ _ => by omega)

theorem columnMid_same (h : SamePacket cfg m m') : columnMid cfg m c = columnMid cfg m' c :=
  congrArg (BitVec.ofNat 16) (memRead_same h (by rw [colLen]; omega) fun _ _ _ _ => by omega)

theorem columnFid_same (h : SamePacket cfg m m') : columnFid cfg m c = columnFid cfg m' c :=
  congrArg (BitVec.ofNat 16) (memRead_same h (by rw [colLen]; omega) fun _ _ _ _ => by omega)

theorem columnEnc_same (h : SamePacket cfg m m') : columnEnc cfg m c = columnEnc cfg m' c :=
  congrArg (BitVec.ofNat 32) (memRead_same h (by rw [colLen]; omega) fun _ _ _ _ => by omega)

theorem columnValid_same (h : SamePacket cfg m m') : columnValid cfg m c = columnValid cfg m' c := by
  have hmark : memRead m (markOff cfg c) 4 = memRead m' (markOff cfg c) 4 := by
    rw [markOff, Nat.add_assoc]
    exact memRead_same h (by rw [colLen]; omega) fun _ _ _ _ => by omega
  rw [columnValid, columnValid, hmark]

/-- The two-byte fields of a pixel: reflectivity, signal and noise. -/
theorem intensity_same (h : SamePacket cfg m m') {k j : Nat} (hk : k < cfg.N) (hj : 4 ≤ j) (hj' : j ≤ 8) :
    memRead m (colBase cfg c + (16 + 12 * k + j)) 2 = memRead m' (colBase cfg c + (16 + 12 * k + j)) 2 :=
  memRead_same h (by rw [colLen]; omega) fun _ _ _ _ => by omega

/-- The low 20 bits of a distance word are two bytes and half of a third. -/
theorem toNat_pixelDist_bytes (cfg : Cfg) (m : Memory) (c k : Nat) :
    (pixelDist cfg m c k).toNat =
      (m.readByte (distOff cfg c k)).toNat + 2 ^ 8 * (m.readByte (distOff cfg c k + 1)).toNat
        + 2 ^ 16 * ((m.readByte (distOff cfg c k + 2)).toNat % 16) := by
  have hmask : (pixelDist cfg m c k).toNat = memRead m (distOff cfg c k) 4 % 2 ^ 20 := by
    rw [pixelDist, BitVec.toNat_and, toNat_ofNat_memRead _ _ (by decide)]
    exact Nat.and_two_pow_sub_one_eq_mod _ 20
  have h0 := (m.readByte (distOff cfg c k)).isLt
  have h1 := (m.readByte (distOff cfg c k + 1)).isLt
  rw [hmask]
  simp only [memRead, show distOff cfg c k + 1 + 1 = distOff cfg c k + 2 from rfl]
  omega

theorem pixelDist_same (h : SamePacket cfg m m') (hc : c < cfg.C) {k : Nat} (hk : k < cfg.N) :
    pixelDist cfg m c k = pixelDist cfg m' c k := by
  have hbyte (j : Nat) (hj : j < 2) :
      Memory.readByte m (distOff cfg c k + j) = Memory.readByte m' (distOff cfg c k + j) := by
    have hoff : distOff cfg c k + j = colBase cfg c + (16 + 12 * k + j) := by
      simp only [distOff, pxBase]
      omega
    rw [hoff]
    exact readByte_same h (by rw [colLen]; omega) fun _ _ => by omega
  have hhigh : (m.readByte (distOff cfg c k + 2)).toNat % 16 = (m'.readByte (distOff cfg c k + 2)).toNat % 16 :=
    h.2 c k hc hk
  apply BitVec.eq_of_toNat_eq
  rw [toNat_pixelDist_bytes, toNat_pixelDist_bytes, hbyte 1 (by decide), hhigh]
  exact congrArg (fun b : Byte => b.toNat + _ + _) (hbyte 0 (by decide))

theorem pixelRefl_same (h : SamePacket cfg m m') {k : Nat} (hk : k < cfg.N) :
    pixelRefl cfg m c k = pixelRefl cfg m' c k := by
  have := intensity_same (c := c) h hk (j := 4) (by decide) (by decide)
  rw [← Nat.add_assoc, ← Nat.add_assoc] at this
  exact congrArg (BitVec.ofNat 16) this

theorem pixelSig_same (h : SamePacket cfg m m') {k : Nat} (hk : k < cfg.N) :
    pixelSig cfg m c k = pixelSig cfg m' c k := by
  have := intensity_same (c := c) h hk (j := 6) (by decide) (by decide)
  rw [← Nat.add_assoc, ← Nat.add_assoc] at this
  exact congrArg (BitVec.ofNat 16) this

theorem pixelNoise_same (h : SamePacket cfg m m') {k : Nat} (hk : k < cfg.N) :
    pixelNoise cfg m c k = pixelNoise cfg m' c k := by
  have := intensity_same (c := c) h hk (j := 8) (by decide) (by decide)
  rw [← Nat.add_assoc, ← Nat.add_assoc] at this
  exact congrArg (BitVec.ofNat 16) this

/-- A point is made of fields. -/
theorem pointAt_same (h : SamePacket cfg m m') (cal : CalTable)
    (hc : c < cfg.C) {k : Nat} (hk : k < cfg.N) (tag : Ret) :
    pointAt cfg m cal c k tag = pointAt cfg m' cal c k tag := by
  rw [pointAt, pointAt, positionOf, positionOf, pixelDist_same h hc hk, pixelRefl_same h hk, pixelSig_same h hk,
    pixelNoise_same h hk, columnEnc_same h, columnTs_same h, columnValid_same h]

theorem singlePoints_same (h : SamePacket cfg m m') (cal : CalTable) (tag : Ret) :
    singlePoints cfg m cal tag = singlePoints cfg m' cal tag :=
  List.flatMap_congr fun _ hc => List.map_congr_left fun _ hk =>
    pointAt_same h cal (List.mem_range.mp hc) (List.mem_range.mp hk) tag

theorem dualPairs_same (h : SamePacket cfg m m') (cal : CalTable) : dualPairs cfg m cal = dualPairs cfg m' cal :=
  List.flatMap_congr fun j hj => List.map_congr_left fun k hk => by
    have hj := List.mem_range.mp hj
    have hk := List.mem_range.mp hk
    rw [pointAt_same h cal (by omega) hk, pointAt_same h cal (by omega) hk]

end

/-! ### Operations on two such packets -/

section
variable {s : State} {m : Memory}

theorem pixelOp_withPacket {c k addr width : Nat} {v v' : BitVec 64}
    (hv : c < s.cfg.C → k < s.cfg.N → v' = v) :
    pixelOp { s with pkt := m } c k addr width v' =
      (pixelOp s c k addr width v).mapState fun u => { u with pkt := m } := by
  unfold pixelOp
  by_cases hp : s.pktOk = false
  · rw [if_pos hp, if_pos hp]
    rfl
  by_cases hc : s.cfg.C ≤ c
  · rw [if_neg hp, if_neg hp, if_pos hc, if_pos hc]
    rfl
  by_cases hk : s.cfg.N ≤ k
  · rw [if_neg hp, if_neg hp, if_neg hc, if_neg hc, if_pos hk, if_pos hk]
    rfl
  rw [if_neg hp, if_neg hp, if_neg hc, if_neg hc, if_neg hk, if_neg hk, hv (by omega) (by omega), readField, readField,
    apply_ite (Reply.mapState fun u => { u with pkt := m })]
  rfl

theorem columnOp_withPacket {c addr width : Nat} {v v' : BitVec 64} (hv : v' = v) :
    columnOp { s with pkt := m } c addr width v' =
      (columnOp s c addr width v).mapState fun u => { u with pkt := m } := by
  subst hv
  unfold columnOp
  by_cases hp : s.pktOk = false
  · rw [if_pos hp, if_pos hp]
    rfl
  by_cases hc : s.cfg.C ≤ c
  · rw [if_neg hp, if_neg hp, if_pos hc, if_pos hc]
    rfl
  rw [if_neg hp, if_neg hp, if_neg hc, if_neg hc, readField, readField,
    apply_ite (Reply.mapState fun u => { u with pkt := m })]
  rfl

/-- An operation that reads the packet has the same rule on both, but for the bytes in the state. -/
theorem exec_withPacket {i : Instr} (hi : readsPacket i = true) (h : SamePacket s.cfg s.pkt m) :
    ∃ r, exec i s = finish r ∧ exec i { s with pkt := m } = finish (r.mapState fun u => { u with pkt := m }) := by
  have hpixel {c k addr width : Nat} {field : Memory → BitVec 64}
      (hf : c < s.cfg.C → k < s.cfg.N → field s.pkt = field m) :=
    pixelOp_withPacket (s := s) (m := m) (addr := addr) (width := width) fun hc hk => (hf hc hk).symm
  have hcolumn {c addr width : Nat} {field : Memory → BitVec 64} (hf : field s.pkt = field m) :=
    columnOp_withPacket (s := s) (m := m) (c := c) (addr := addr) (width := width) hf.symm
  have hconvert (policy : Policy) : convert policy { s with pkt := m } =
      (convert policy s).mapState fun u => { u with pkt := m } :=
    convert_mapState (transparent_pkt m) policy (fun tag => (singlePoints_same h s.cal tag).symm)
      (dualPairs_same h s.cal).symm
  cases i with
  | pxDist c k =>
    exact ⟨_, rfl, congrArg finish (hpixel (field := fun m => (pixelDist s.cfg m c k).setWidth 64)
      fun hc hk => congrArg _ (pixelDist_same h hc hk))⟩
  | pxRefl c k =>
    exact ⟨_, rfl, congrArg finish (hpixel (field := fun m => (pixelRefl s.cfg m c k).setWidth 64)
      fun _ hk => congrArg _ (pixelRefl_same h hk))⟩
  | pxSig c k =>
    exact ⟨_, rfl, congrArg finish (hpixel (field := fun m => (pixelSig s.cfg m c k).setWidth 64)
      fun _ hk => congrArg _ (pixelSig_same h hk))⟩
  | pxNoise c k =>
    exact ⟨_, rfl, congrArg finish (hpixel (field := fun m => (pixelNoise s.cfg m c k).setWidth 64)
      fun _ hk => congrArg _ (pixelNoise_same h hk))⟩
  | colTs c => exact ⟨_, rfl, congrArg finish (hcolumn (field := fun m => columnTs s.cfg m c) (columnTs_same h))⟩
  | colMid c =>
    exact ⟨_, rfl, congrArg finish (hcolumn (field := fun m => (columnMid s.cfg m c).setWidth 64)
      (congrArg _ (columnMid_same h)))⟩
  | colFid c =>
    exact ⟨_, rfl, congrArg finish (hcolumn (field := fun m => (columnFid s.cfg m c).setWidth 64)
      (congrArg _ (columnFid_same h)))⟩
  | colEnc c =>
    exact ⟨_, rfl, congrArg finish (hcolumn (field := fun m => (columnEnc s.cfg m c).setWidth 64)
      (congrArg _ (columnEnc_same h)))⟩
  | colValid c =>
    exact ⟨_, rfl, congrArg finish (hcolumn (field := fun m => boolRes (columnValid s.cfg m c))
      (congrArg _ (columnValid_same h)))⟩
  | colAzdeg c =>
    exact ⟨_, rfl, congrArg finish (hcolumn (field := fun m => azimuthDegrees s.cfg (columnEnc s.cfg m c))
      (congrArg _ (columnEnc_same h)))⟩
  | colAzrad c =>
    exact ⟨_, rfl, congrArg finish (hcolumn (field := fun m => azimuthRadians s.cfg (columnEnc s.cfg m c))
      (congrArg _ (columnEnc_same h)))⟩
  | cvtLast | cvtStrongest | cvtDual | cvtRuntime => exact ⟨_, rfl, congrArg finish (hconvert _)⟩
  | nop | sysReset | asmReset | csrRd r | csrWr r v | pktLoad | calBuiltin n | calExt | calGet f k | calRes | calNum
  | asmPush src | proc => cases hi

/-- A map of states that the completion commutes with carries over to the next state and to a refusal. -/
theorem finish_mapState {f : State → State} {r : Reply}
    (hcompleted : ∀ s out, (f s).completed out = f (s.completed out))
    (hraised : ∀ s e, (f s).raised e = f (s.raised e)) :
    (∀ t, finish r = .next t → finish (r.mapState f) = .next (f t)) ∧
    (∀ w, finish r = .refused w → finish (r.mapState f) = .refused w) := by
  refine ⟨fun t h => ?_, fun w h => ?_⟩
  · rcases (finish_next_iff r t).mp h with ⟨u, out, rfl, rfl⟩ | ⟨u, e, rfl, rfl⟩
    · exact congrArg Host.Outcome.next (hcompleted u out)
    · exact congrArg Host.Outcome.next (hraised u e)
  · cases r <;> cases h
    rfl

end

/-- Settles O20: no field holds a reserved or a padding byte, and an operation sees the fields only. -/
theorem reservedBitsAndPaddingAreIgnored : Obligations.ReservedBitsAndPaddingAreIgnored := by
  refine ⟨fun i s m hi h => ?_, fun s rx hf hlen hlen' h => ?_⟩
  · obtain ⟨r, hr, hr'⟩ := exec_withPacket hi h
    rw [hr, hr']
    exact finish_mapState (fun _ _ => rfl) fun _ _ => rfl
  · have hproc := congrArg finish (processPacket_of_length (s := s) hf hlen)
    have hproc' := congrArg finish
      (processPacket_of_length (s := { s with payload := { s.payload with rx := rx } }) hf hlen')
    have hstages := stages_mapState (transparent_packet rx (Memory.ofBytes rx))
      (s := { s with pkt := Memory.ofBytes s.payload.rx, pktOk := true }) s.policy
      (fun tag => (singlePoints_same h s.cal tag).symm) (dualPairs_same h s.cal).symm
    have hboth := finish_mapState
      (f := fun u => { u with payload := { u.payload with rx := rx }, pkt := Memory.ofBytes rx })
      (r := andThen (convert s.policy { s with pkt := Memory.ofBytes s.payload.rx, pktOk := true }) (pushPoints .pts))
      (fun _ _ => rfl) fun _ _ => rfl
    rw [← hstages] at hboth
    obtain ⟨hnext, hrefused⟩ := hboth
    exact ⟨fun t ht => hproc'.trans (hnext t (hproc.symm.trans ht)),
      fun w hw => hproc'.trans (hrefused w (hproc.symm.trans hw))⟩

end Sys2Proof.Proofs
end

section
/-!
PROOFS. TRIG (42_converter.md R176) at every angle: the sine reads the table at the angle's tick within one revolution,
and the real sine has the same period.
-/

namespace Sys2Proof.Machine

open Sys2Proof

/-- The tick of an angle within one revolution. -/
def tickOf (cfg : Cfg) (a : Int) : Nat := (a % (cfg.T : Int)).toNat

section
variable {cfg : Cfg}

theorem natCast_tickOf (hT : 0 < cfg.T) (a : Int) : (tickOf cfg a : Int) = a % (cfg.T : Int) :=
  Int.toNat_of_nonneg (Int.emod_nonneg a (by omega))

theorem tickOf_lt (hT : 0 < cfg.T) (a : Int) : tickOf cfg a < cfg.T := by
  have hlt := Int.emod_lt_of_pos a (b := (cfg.T : Int)) (by omega)
  rw [← natCast_tickOf hT] at hlt
  exact_mod_cast hlt

/-- The sine is the table's entry at the tick. -/
theorem sinq_eq_of_tick {a v : Int} (h : cfg.sinTab[tickOf cfg a]? = some v) : sinq cfg a = v := by
  rw [sinq, List.getD_eq_getElem?_getD]
  change (cfg.sinTab[tickOf cfg a]?).getD 0 = v
  rw [h, Option.getD_some]

/-- In a table of T entries every angle has one. -/
theorem getElem?_tickOf (hT : 0 < cfg.T) (hlen : cfg.sinTab.length = cfg.T) (a : Int) :
    cfg.sinTab[tickOf cfg a]? = some (sinq cfg a) := by
  have hget := List.getElem?_eq_getElem (l := cfg.sinTab) (i := tickOf cfg a) (hlen ▸ tickOf_lt hT a)
  rw [sinq_eq_of_tick hget]
  exact hget

/-- R176 (a). -/
theorem sinq_add_revolution (cfg : Cfg) (a : Int) : sinq cfg (a + (cfg.T : Int)) = sinq cfg a := by
  rw [sinq, sinq, Int.add_emod_right]

/-- An angle within the first revolution is its own tick. -/
theorem sinq_natCast {n : Nat} {v : Int} (hn : n < cfg.T) (h : cfg.sinTab[n]? = some v) : sinq cfg (n : Int) = v := by
  refine sinq_eq_of_tick ?_
  rwa [tickOf, ← Int.natCast_mod, Int.toNat_natCast, Nat.mod_eq_of_lt hn]

/-- The real sine at an angle is that at its tick. -/
theorem sin_tickOf (hT : 0 < cfg.T) (a : Int) :
    Real.sin (2 * Real.pi * a / cfg.T) = Real.sin (2 * Real.pi * tickOf cfg a / cfg.T) := by
  have hT' : (cfg.T : ℝ) ≠ 0 := by exact_mod_cast hT.ne'
  have hsplit : (a : ℝ) = tickOf cfg a + cfg.T * ((a / (cfg.T : Int) : Int) : ℝ) := by
    have := Int.emod_add_mul_ediv a (cfg.T : Int)
    rw [← natCast_tickOf hT] at this
    exact_mod_cast this.symm
  have hangle : 2 * Real.pi * a / cfg.T =
      2 * Real.pi * tickOf cfg a / cfg.T + ((a / (cfg.T : Int) : Int) : ℝ) * (2 * Real.pi) := by
    rw [hsplit]
    field_simp
  rw [hangle, Real.sin_add_int_mul_two_pi]

/-- R176 (e) at every angle. -/
theorem sinq_accurate (hT : 0 < cfg.T) (htrig : cfg.TrigWf) (a : Int) :
    |(sinq cfg a : ℝ) - 2 ^ 30 * Real.sin (2 * Real.pi * a / cfg.T)| ≤ 1 := by
  obtain ⟨⟨hlen, -⟩, hsine⟩ := htrig
  rw [sin_tickOf hT]
  exact hsine _ _ (getElem?_tickOf hT hlen a)

/-- R176 (c). -/
theorem sinq_cardinal (hT : 4 ≤ cfg.T) (h : cfg.TrigTable) :
    sinq cfg 0 = 0 ∧ sinq cfg ((cfg.T : Int) / 4) = 2 ^ 30 ∧ sinq cfg ((cfg.T : Int) / 2) = 0 ∧
    sinq cfg (3 * (cfg.T : Int) / 4) = -(2 ^ 30) := by
  obtain ⟨-, -, h0, h1, h2, h3⟩ := h
  have hquarter : (cfg.T : Int) / 4 = (cfg.T / 4 : Nat) := by omega
  have hhalf : (cfg.T : Int) / 2 = (cfg.T / 2 : Nat) := by omega
  have hthree : 3 * (cfg.T : Int) / 4 = (3 * cfg.T / 4 : Nat) := by omega
  rw [hquarter, hhalf, hthree]
  exact ⟨sinq_natCast (n := 0) (by omega) h0, sinq_natCast (by omega) h1, sinq_natCast (by omega) h2,
    sinq_natCast (by omega) h3⟩

end

/-- The reference table at every angle, as the last paragraph of R176 gives it. -/
theorem sinq_a16 (a : Int) :
    sinq Cfg.a16 a = ⌊2 ^ 30 * Real.sin (2 * Real.pi * ((a % 3600 : Int) : ℝ) / 3600) + 1 / 2⌋ := by
  have hT : 0 < Cfg.a16.T := by decide
  have hget := getElem?_tickOf hT length_sineReference a
  have htick : ((a % 3600 : Int) : ℝ) = tickOf Cfg.a16 a := by
    exact_mod_cast (natCast_tickOf hT a).symm
  rw [htick]
  exact sineReference_floor _ _ hget

end Sys2Proof.Machine

namespace Sys2Proof.Proofs

open Sys2Proof Sys2Proof.Machine Sys2Proof.Claims

/-- Settles O52: from the table to every angle by the period. -/
theorem trigMeetsItsRule : Obligations.TrigMeetsItsRule := by
  refine ⟨fun cfg a hwf => ?_, fun cfg hwf => ?_, rfl, sinq_a16⟩
  · obtain ⟨-, -, ⟨hT, -⟩, -, -, -, -, -, -, htrig⟩ := hwf
    obtain ⟨hlo, hhi⟩ := abs_le.mp (abs_sinq_le htrig.1 a)
    exact ⟨sinq_add_revolution cfg a, hlo, hhi, rfl, sinq_accurate (by omega) htrig a⟩
  · obtain ⟨-, -, ⟨hT, -⟩, -, -, -, -, -, -, htrig⟩ := hwf
    exact sinq_cardinal hT htrig.1

end Sys2Proof.Proofs
end

section
/-!
PROOFS. The first packet of a stream (43_assembler.md R230, R201 to R209): RUN takes a column of rising channels by
appending it, and the next column flushes it whole, so that a packet leaves all its columns but the last in the
revolution buffer.
-/

namespace Sys2Proof.Machine

open Sys2Proof

/-! ### RUN over a column -/

/-- RUN passes all of `points` through STEP and goes on from `b`. -/
def Takes (cfg : Cfg) (a : Asm) (points : List Point) (b : Asm) : Prop :=
  ∀ rest, runQueue cfg (points ++ rest) a = runQueue cfg rest b

/-- A point neither of whose boundaries `p` sets: its channel and its azimuth are not below. -/
def Follows (p q : Point) : Prop := p.ch.toNat ≤ q.ch.toNat ∧ p.az.toNat ≤ q.az.toNat

/-- The assembler with a run of points appended. -/
def appendAll (a : Asm) (points : List Point) : Asm := points.foldl appendPoint a

/-- A column with its points' column number (43_assembler.md R209). -/
def numbered (count : BitVec 32) (points : List Point) : List Point := points.map fun p => { p with col := count }

section
variable {cfg : Cfg} {a b c : Asm} {points : List Point} {p : Point}

theorem takes_append {points' : List Point} (h : Takes cfg a points b) (h' : Takes cfg b points' c) :
    Takes cfg a (points ++ points') c := fun rest => by
  rw [List.append_assoc, h, h']

theorem takes_cons (hframe : a.frameValid = false) (hs : stepPoint cfg a p = .ok b) (h : Takes cfg b points c) :
    Takes cfg a (p :: points) c := fun rest => by
  rw [List.cons_append, runQueue_cons_ok cfg p _ a b hframe hs, h]

theorem appendAll_concat (a : Asm) (points : List Point) (p : Point) :
    appendAll a (points ++ [p]) =
      { a with
        colbuf := a.colbuf ++ numbered a.colcnt (points ++ [p])
        prevCh := p.ch
        prevAz := p.az
        prevValid := true } := by
  induction points generalizing a with
  | nil => rfl
  | cons q qs ih =>
    have := ih (appendPoint a q)
    rw [List.cons_append]
    change appendAll (appendPoint a q) (qs ++ [p]) = _
    rw [this]
    simp [appendPoint, numbered]

/-- Without a boundary STEP appends. -/
theorem stepPoint_of_follows
    (h : a.prevValid = true → a.prevCh.toNat ≤ p.ch.toNat ∧ a.prevAz.toNat ≤ p.az.toNat) :
    stepPoint cfg a p = .ok (appendPoint a p) := by
  have hcolumn : columnBoundary a p = false := by
    rw [Bool.eq_false_iff, Ne, columnBoundary_eq_true_iff]
    exact fun ⟨hvalid, hlt⟩ => hlt.not_ge (h hvalid).1
  rw [stepPoint_within hcolumn, finaliseIfBoundary_of_neg]
  rw [revolutionBoundary_eq_true_iff]
  exact fun ⟨⟨hvalid, hlt⟩, _⟩ => hlt.not_ge (h hvalid).2

/-- A run of points that rise, and that do not fall behind the previous point, is appended. -/
theorem takes_appendAll (hframe : a.frameValid = false) (hrise : points.Pairwise Follows)
    (hfirst : ∀ p ∈ points,
      a.prevValid = true → a.prevCh.toNat ≤ p.ch.toNat ∧ a.prevAz.toNat ≤ p.az.toNat) :
    Takes cfg a points (appendAll a points) := by
  induction points generalizing a with
  | nil => exact fun _ => rfl
  | cons p ps ih =>
    obtain ⟨hp, hps⟩ := List.pairwise_cons.mp hrise
    exact takes_cons hframe (stepPoint_of_follows (hfirst p List.mem_cons_self))
      (ih hframe hps fun q hq _ => hp q hq)

/-- A run of rising points whose first closes a full column flushes it and is appended. -/
theorem takes_flushed (hframe : a.frameValid = false) (hvalid : a.prevValid = true)
    (hlen : a.colbuf.length = cfg.beamCount) (hroom : cfg.revCap ≠ some a.rev.length)
    (hch : p.ch.toNat < a.prevCh.toNat) (haz : a.prevAz.toNat ≤ p.az.toNat) (hrise : (p :: points).Pairwise Follows) :
    Takes cfg a (p :: points) (appendAll (flushedAsm a) (p :: points)) := by
  obtain ⟨hp, hps⟩ := List.pairwise_cons.mp hrise
  have hstep := stepPoint_closing ((columnBoundary_eq_true_iff a p).mpr ⟨hvalid, hch⟩) hlen hroom
  rw [finaliseIfBoundary_of_neg] at hstep
  · exact takes_cons hframe hstep (takes_appendAll hframe hps fun q hq _ => hp q hq)
  · rw [revolutionBoundary_eq_true_iff]
    exact fun ⟨⟨_, hlt⟩, _⟩ => hlt.not_ge haz

end

/-! ### The columns of a packet -/

/-- The points of column `c` under the policy LAST (42_converter.md R179). -/
def columnPoints (cfg : Cfg) (m : Memory) (cal : CalTable) (c : Nat) : List Point :=
  (List.range cfg.N).map fun k => pointAt cfg m cal c k .last

/-- The assembler that has taken the columns up to `c` of a first packet. -/
def afterColumn (cfg : Cfg) (m : Memory) (cal : CalTable) (a : Asm) (c : Nat) : Asm :=
  { a with
    rev := (List.range c).map fun j => numbered (BitVec.ofNat 32 j) (columnPoints cfg m cal j)
    colbuf := numbered (BitVec.ofNat 32 c) (columnPoints cfg m cal c)
    prevValid := true
    prevAz := columnEnc cfg m c
    prevCh := BitVec.ofNat 16 (cfg.N - 1)
    colcnt := BitVec.ofNat 32 c
    beamNum := if c = 0 then a.beamNum else BitVec.ofNat 16 cfg.N }

section
variable {cfg : Cfg} {m : Memory} {cal : CalTable}

theorem length_columnPoints (c : Nat) : (columnPoints cfg m cal c).length = cfg.N := by
  rw [columnPoints, List.length_map, List.length_range]

/-- A column starts with channel 0. -/
theorem columnPoints_eq_cons (hN : 0 < cfg.N) (c : Nat) :
    ∃ rest, columnPoints cfg m cal c = pointAt cfg m cal c 0 .last :: rest := by
  obtain ⟨n, hn⟩ := Nat.exists_eq_succ_of_ne_zero hN.ne'
  rw [columnPoints, hn, List.range_succ_eq_map]
  exact ⟨_, rfl⟩

/-- A column ends with channel N - 1. -/
theorem columnPoints_eq_concat (hN : 0 < cfg.N) (c : Nat) :
    ∃ init, columnPoints cfg m cal c = init ++ [pointAt cfg m cal c (cfg.N - 1) .last] := by
  obtain ⟨n, hn⟩ := Nat.exists_eq_succ_of_ne_zero hN.ne'
  rw [columnPoints, hn, List.range_succ, List.map_append]
  exact ⟨_, rfl⟩

/-- A column has rising channels and one azimuth. -/
theorem columnPoints_follow (hN : cfg.N ≤ 4096) (c : Nat) : (columnPoints cfg m cal c).Pairwise Follows := by
  rw [columnPoints, List.pairwise_map]
  refine List.pairwise_lt_range.imp_of_mem fun {k l} hk hl hlt => ⟨?_, le_rfl⟩
  have hk := List.mem_range.mp hk
  have hl := List.mem_range.mp hl
  change (BitVec.ofNat 16 k).toNat ≤ (BitVec.ofNat 16 l).toNat
  rw [BitVec.toNat_ofNat, BitVec.toNat_ofNat, Nat.mod_eq_of_lt (by omega), Nat.mod_eq_of_lt (by omega)]
  exact hlt.le

/-- Column `c` of the scan. -/
theorem take_drop_singlePoints {c : Nat} (hc : c < cfg.C) :
    ((singlePoints cfg m cal .last).drop (c * cfg.N)).take cfg.N = columnPoints cfg m cal c := by
  refine List.ext_getElem? fun k => ?_
  rw [List.getElem?_take, List.getElem?_drop]
  by_cases hk : k < cfg.N
  · rw [if_pos hk, getElem?_singlePoints cfg m cal .last c k hc hk, columnPoints, List.getElem?_map,
      List.getElem?_range hk]
    rfl
  · rw [if_neg hk, List.getElem?_eq_none (by rw [length_columnPoints]; omega)]

theorem detectedBeams_columnPoints (hN : 0 < cfg.N) (c : Nat) (count : BitVec 32) :
    detectedBeams (numbered count (columnPoints cfg m cal c)) = BitVec.ofNat 16 cfg.N := by
  obtain ⟨init, hinit⟩ := columnPoints_eq_concat (m := m) (cal := cal) hN c
  have hlast : (numbered count (columnPoints cfg m cal c)).getLast? =
      some { pointAt cfg m cal c (cfg.N - 1) .last with col := count } := by
    rw [hinit, numbered, List.map_append]
    exact List.getLast?_concat
  have hsucc : cfg.N = cfg.N - 1 + 1 := by omega
  rw [detectedBeams, hlast, hsucc, BitVec.ofNat_add]
  rfl

variable {a : Asm}

/-- The first column is appended to the empty assembler. -/
theorem appendAll_first (hN : 0 < cfg.N) (hrev : a.rev = []) (hcolbuf : a.colbuf = []) (hcnt : a.colcnt = 0) :
    appendAll a (columnPoints cfg m cal 0) = afterColumn cfg m cal a 0 := by
  obtain ⟨init, hinit⟩ := columnPoints_eq_concat (m := m) (cal := cal) hN 0
  have happend := appendAll_concat a init (pointAt cfg m cal 0 (cfg.N - 1) .last)
  rw [← hinit] at happend
  rw [happend]
  simp only [afterColumn, hrev, hcolbuf, hcnt, List.range_zero, List.map_nil, List.nil_append, if_true]
  rfl

/-- Each further column flushes the one before. -/
theorem appendAll_flushed (hN : 0 < cfg.N) (c : Nat) :
    appendAll (flushedAsm (afterColumn cfg m cal a c)) (columnPoints cfg m cal (c + 1)) =
      afterColumn cfg m cal a (c + 1) := by
  obtain ⟨init, hinit⟩ := columnPoints_eq_concat (m := m) (cal := cal) hN (c + 1)
  have hcnt : BitVec.ofNat 32 c + 1 = BitVec.ofNat 32 (c + 1) := by rw [BitVec.ofNat_add]; rfl
  have happend := appendAll_concat (flushedAsm (afterColumn cfg m cal a c)) init
    (pointAt cfg m cal (c + 1) (cfg.N - 1) .last)
  rw [← hinit] at happend
  rw [happend]
  simp only [flushedAsm, afterColumn, detectedBeams_columnPoints hN, hcnt, List.range_succ, List.map_append,
    List.map_cons, List.map_nil, List.nil_append, Nat.add_eq_zero_iff, Nat.one_ne_zero, and_false, if_false]
  rfl

/-- RUN takes the columns of a first packet one after the other, as long as they are full, the azimuth does not drop and
the revolution buffer has room (43_assembler.md R204 to R206). -/
theorem takes_columns (hN : 1 < cfg.N) (hN' : cfg.N ≤ 4096) (hbeams : cfg.N = cfg.beamCount)
    (hroom : ∀ cap, cfg.revCap = some cap → cfg.C ≤ cap + 1)
    (haz : ∀ c, c + 1 < cfg.C → (columnEnc cfg m c).toNat ≤ (columnEnc cfg m (c + 1)).toNat)
    (hframe : a.frameValid = false) (hvalid : a.prevValid = false) (hrev : a.rev = []) (hcolbuf : a.colbuf = [])
    (hcnt : a.colcnt = 0) (c : Nat) (hc : c < cfg.C) :
    Takes cfg a ((List.range (c + 1)).flatMap (columnPoints cfg m cal)) (afterColumn cfg m cal a c) := by
  induction c with
  | zero =>
    have hfirst := takes_appendAll (cfg := cfg) hframe (columnPoints_follow (m := m) (cal := cal) hN' 0)
      fun p _ hv => absurd (hv.symm.trans hvalid) (by decide)
    rw [appendAll_first (by omega) hrev hcolbuf hcnt] at hfirst
    simpa using hfirst
  | succ c ih =>
    have hnext : Takes cfg (afterColumn cfg m cal a c) (columnPoints cfg m cal (c + 1))
        (afterColumn cfg m cal a (c + 1)) := by
      obtain ⟨rest, hrest⟩ := columnPoints_eq_cons (m := m) (cal := cal) (by omega : 0 < cfg.N) (c + 1)
      have hrise := columnPoints_follow (m := m) (cal := cal) hN' (c + 1)
      rw [← appendAll_flushed (by omega) c]
      rw [hrest] at hrise ⊢
      refine takes_flushed hframe rfl ?_ (fun hfull => ?_) ?_ (haz c hc) hrise
      · exact (List.length_map _).trans ((length_columnPoints c).trans hbeams)
      · have hcap := hroom _ hfull
        have hlen : (afterColumn cfg m cal a c).rev.length = c := (List.length_map _).trans List.length_range
        omega
      · change (BitVec.ofNat 16 0).toNat < (BitVec.ofNat 16 (cfg.N - 1)).toNat
        rw [BitVec.toNat_ofNat, BitVec.toNat_ofNat, Nat.mod_eq_of_lt (by omega : cfg.N - 1 < 2 ^ 16)]
        omega
    rw [List.range_succ, List.flatMap_append, List.flatMap_singleton]
    exact takes_append (ih (by omega)) hnext

/-- RUN on the whole packet. -/
theorem runQueue_of_takes {points : List Point} {b : Asm} (h : Takes cfg a points b) :
    runQueue cfg points a = { asm := b.withQueue [], raised := none } := by
  have := h []
  rwa [List.append_nil] at this

end

end Sys2Proof.Machine

namespace Sys2Proof.Proofs

open Sys2Proof Sys2Proof.Machine Sys2Proof.Claims

/-- The host's packet as the block reads it back. -/
theorem memRead_ofBytes_four (s : State) (a : Nat) :
    memRead (Memory.ofBytes s.payload.rx) a 4 = payloadWord4 s a := by
  simp only [memRead, readByte_ofBytes, unlistedByte, payloadWord4]
  ring_nf

/-- The encoder count of a column of the host's packet. -/
theorem columnEnc_ofBytes (s : State) (c : Nat) :
    columnEnc s.cfg (Memory.ofBytes s.payload.rx) c = BitVec.ofNat 32 (payloadWord4 s (colStart s c + 12)) :=
  congrArg (BitVec.ofNat 32) (memRead_ofBytes_four s _)

theorem toNat_columnEnc_ofBytes (s : State) (c : Nat) :
    (columnEnc s.cfg (Memory.ofBytes s.payload.rx) c).toNat = payloadWord4 s (colStart s c + 12) :=
  (toNat_ofNat_memRead _ _ (by decide)).trans (memRead_ofBytes_four s _)

/-- The scan of the host's packet under the policy LAST. -/
def hostPoints (s : State) : List Point := singlePoints s.cfg (Memory.ofBytes s.payload.rx) s.cal .last

/-- The block after PKT.LOAD of the host's packet. -/
def afterLoad (s : State) : State :=
  ({ s with pkt := Memory.ofBytes s.payload.rx, pktOk := true } : State).completed .none

/-- The block after CVT.LAST of that packet. -/
def afterConversion (s : State) : State :=
  ({ afterLoad s with pts := .single (hostPoints s) } : State).completed (.points (.single (hostPoints s)))

/-- Column `c` of the scan, its points numbered. -/
theorem numbered_take_drop_hostPoints {s : State} {c : Nat} (hc : c < s.cfg.C) :
    numbered (BitVec.ofNat 32 c) (((hostPoints s).drop (c * s.cfg.N)).take s.cfg.N) =
      numbered (BitVec.ofNat 32 c) (columnPoints s.cfg (Memory.ofBytes s.payload.rx) s.cal c) :=
  congrArg _ (take_drop_singlePoints hc)

section
variable {s : State}

theorem exec_pktLoad_afterLoad (hlen : s.payload.rx.length = s.cfg.C * (20 + 12 * s.cfg.N)) :
    exec .pktLoad s = .next (afterLoad s) := exec_pktLoad_of_length hlen

theorem exec_cvtLast_afterConversion (hcal : s.calOk = true) (hnum : s.cal.num.toNat = s.cfg.N) :
    exec .cvtLast (afterLoad s) = .next (afterConversion s) :=
  congrArg finish (convert_of_single (policy := .last) (s := afterLoad s) rfl hcal rfl hnum)

/-- PROC under LAST ends as the push of the scan ends. -/
theorem exec_proc_afterConversion (hpolicy : s.policy = .last) (hcal : s.calOk = true)
    (hnum : s.cal.num.toNat = s.cfg.N) (hlen : s.payload.rx.length = s.cfg.C * (20 + 12 * s.cfg.N))
    (hf : s.asm.fatal = false) : exec .proc s = exec (.asmPush .pts) (afterConversion s) := by
  have hconv : exec (conversionOf s.policy) (afterLoad s) = .next (afterConversion s) := by
    rw [hpolicy]
    exact exec_cvtLast_afterConversion hcal hnum
  have hstages := proc_of_loaded (s := s) (s1 := { s with pkt := Memory.ofBytes s.payload.rx, pktOk := true }) rfl
    (congrArg finish (processPacket_of_length hf hlen))
  exact (hstages.2 _ hconv).2 rfl

/-- The push of the scan into an empty queue is RUN over it. -/
theorem exec_asmPush_afterConversion (hwf : s.cfg.Wf) (hf : s.asm.fatal = false) (hinq : s.asm.inq = []) :
    exec (.asmPush .pts) (afterConversion s) =
      finish (runBatch (hostPoints s) { afterConversion s with pts := .none }) := by
  obtain ⟨-, -, -, -, -, -, -, -, hroom, -⟩ := hwf
  refine congrArg finish (pushPoints_pts_of_withinCap (s := afterConversion s) hf Pts.noConfusion fun n hn => ?_)
  have hfits := hroom n hn
  change s.asm.inq.length + (hostPoints s).length ≤ n
  rw [hinq, hostPoints, length_singlePoints]
  simpa using hfits

/-- RUN over the scan leaves the assembler that has taken every column. -/
theorem runQueue_hostPoints (hwf : s.cfg.Wf) (hN : s.cfg.N = s.cfg.beamCount)
    (hcap : WithinCap (s.cfg.revCap.map (· + 1)) s.cfg.C) (hinq : s.asm.inq = []) (hrev : s.asm.rev = [])
    (hcolbuf : s.asm.colbuf = []) (hvalid : s.asm.prevValid = false) (hcnt : s.asm.colcnt = 0)
    (haz : ∀ c, c + 1 < s.cfg.C →
      payloadWord4 s (colStart s c + 12) ≤ payloadWord4 s (colStart s (c + 1) + 12)) :
    runQueue s.cfg (s.asm.inq ++ hostPoints s) (clearFrame s.asm) =
      { asm := (afterColumn s.cfg (Memory.ofBytes s.payload.rx) s.cal (clearFrame s.asm) (s.cfg.C - 1)).withQueue []
        raised := none } := by
  obtain ⟨⟨-, hN'⟩, ⟨hC, -⟩, -, hbeams, -⟩ := hwf
  have hrising (c : Nat) (hc : c + 1 < s.cfg.C) :
      (columnEnc s.cfg (Memory.ofBytes s.payload.rx) c).toNat ≤
        (columnEnc s.cfg (Memory.ofBytes s.payload.rx) (c + 1)).toNat := by
    rw [toNat_columnEnc_ofBytes, toNat_columnEnc_ofBytes]
    exact haz c hc
  have htakes := takes_columns (cal := s.cal) (a := clearFrame s.asm) (by omega) hN' hN
    (fun cap h => hcap (cap + 1) (by simp [h])) hrising rfl hvalid hrev hcolbuf hcnt (s.cfg.C - 1) (by omega)
  rw [Nat.sub_add_cancel hC] at htakes
  rw [hinq, List.nil_append]
  exact runQueue_of_takes htakes

/-- The assembler that has taken every column, by its fields. -/
theorem afterColumn_hostPoints (hC : 1 ≤ s.cfg.C) (hinq : s.asm.inq = []) :
    (afterColumn s.cfg (Memory.ofBytes s.payload.rx) s.cal (clearFrame s.asm) (s.cfg.C - 1)).withQueue [] =
      { s.asm with
        rev := (List.range (s.cfg.C - 1)).map fun c =>
          numbered (BitVec.ofNat 32 c) (((hostPoints s).drop (c * s.cfg.N)).take s.cfg.N)
        colbuf := numbered (BitVec.ofNat 32 (s.cfg.C - 1))
          (((hostPoints s).drop ((s.cfg.C - 1) * s.cfg.N)).take s.cfg.N)
        prevValid := true
        prevAz := BitVec.ofNat 32 (payloadWord4 s (colStart s (s.cfg.C - 1) + 12))
        prevCh := BitVec.ofNat 16 (s.cfg.N - 1)
        colcnt := BitVec.ofNat 32 (s.cfg.C - 1)
        beamNum := if s.cfg.C = 1 then s.asm.beamNum else BitVec.ofNat 16 s.cfg.N
        frameValid := false
        frame := { points := [], height := 0, width := 0 } } := by
  have hone : s.cfg.C - 1 = 0 ↔ s.cfg.C = 1 := by omega
  have hcols : ((List.range (s.cfg.C - 1)).map fun c =>
      numbered (BitVec.ofNat 32 c) (((hostPoints s).drop (c * s.cfg.N)).take s.cfg.N)) =
      (List.range (s.cfg.C - 1)).map fun c =>
        numbered (BitVec.ofNat 32 c) (columnPoints s.cfg (Memory.ofBytes s.payload.rx) s.cal c) := by
    refine List.map_congr_left fun c hc => numbered_take_drop_hostPoints ?_
    have := List.mem_range.mp hc
    omega
  rw [hcols, numbered_take_drop_hostPoints (by omega), ← columnEnc_ofBytes]
  simp only [afterColumn, Asm.withQueue, hone, hinq]
  rfl

end

/-- Settles O43: the load and the conversion give the scan of the packet, and RUN takes it column by column. -/
theorem firstPacketFillsColumns : Obligations.FirstPacketFillsColumns := by
  intro s hwf hN hpolicy hcal hnum hlen hcap hf hinq hrev hcolbuf hvalid hcnt haz
  obtain ⟨-, ⟨hC, -⟩, -⟩ := id hwf
  have hproc := exec_proc_afterConversion hpolicy hcal hnum hlen hf
  have hpush := exec_asmPush_afterConversion hwf hf hinq
  have hrun := runQueue_hostPoints hwf hN hcap hinq hrev hcolbuf hvalid hcnt haz
  rw [afterColumn_hostPoints hC hinq] at hrun
  refine ⟨afterLoad s, afterConversion s, hostPoints s, exec_pktLoad_afterLoad hlen,
    exec_cvtLast_afterConversion hcal hnum, rfl, length_singlePoints _ _ _ _, ?_⟩
  rw [hproc, hpush, runBatch_eq]
  change finish (batchEnd _ (runQueue s.cfg (s.asm.inq ++ hostPoints s) (clearFrame s.asm))) = _
  rw [hrun]
  rfl

end Sys2Proof.Proofs
end
